-- ==== Sys2Proof/Word.lean ====
section
/-! DEFINITION. The word types of the block: a byte of the wire and of buffer memory, a 32-bit register
(00_scope.md R7, 10_state.md R20). -/
namespace Sys2Proof

/-- A byte of the wire or of buffer memory (R7: "Bytes are 8 bits"). -/
abbrev Byte := BitVec 8

/-- A requester-visible register, a latched operand or a command argument (R20, R73). -/
abbrev Word := BitVec 32

end Sys2Proof
end

