-- ==== Sys2Proof/Syntax.lean ====
section
/-! DEFINITION. The 43 rows of spec/opcode_table.json as one inductive type. -/
namespace Sys2Proof

/-- One constructor per row of the opcode table.

A request (30_encoding.md R70, R71) has no operand in its word: bits 30:4 are ignored, and the operands
are the latched registers (10_state.md R35). A command frame (R73) carries its 32-bit argument and the
7-bit CRC field of byte 5; bit 0 of byte 5, the end bit, is forced to 1. R1 (R77) carries its seven status
bits; a data response (R82) carries the ignored bits 7:4 and 0. -/
inductive Instr where
  -- requests, R70
  | detect
  | init
  | deinit
  | rd1
  | rdn
  | wr1
  | wrn
  | erase
  | info
  | stat
  -- reserved requests, R71
  | reserved0
  | reservedB
  | reservedC
  | reservedD
  | reservedE
  | reservedF
  -- command frames, R75
  | cmd0 (arg : Word) (crc7 : BitVec 7)
  | cmd1 (arg : Word) (crc7 : BitVec 7)
  | cmd8 (arg : Word) (crc7 : BitVec 7)
  | cmd9 (arg : Word) (crc7 : BitVec 7)
  | cmd10 (arg : Word) (crc7 : BitVec 7)
  | cmd12 (arg : Word) (crc7 : BitVec 7)
  | acmd13 (arg : Word) (crc7 : BitVec 7)
  | cmd16 (arg : Word) (crc7 : BitVec 7)
  | cmd17 (arg : Word) (crc7 : BitVec 7)
  | cmd18 (arg : Word) (crc7 : BitVec 7)
  | cmd23 (arg : Word) (crc7 : BitVec 7)
  | cmd24 (arg : Word) (crc7 : BitVec 7)
  | cmd25 (arg : Word) (crc7 : BitVec 7)
  | cmd32 (arg : Word) (crc7 : BitVec 7)
  | cmd33 (arg : Word) (crc7 : BitVec 7)
  | cmd38 (arg : Word) (crc7 : BitVec 7)
  | acmd41 (arg : Word) (crc7 : BitVec 7)
  | acmd51 (arg : Word) (crc7 : BitVec 7)
  | cmd55 (arg : Word) (crc7 : BitVec 7)
  | cmd58 (arg : Word) (crc7 : BitVec 7)
  -- bytes from the card, and tokens, R77, R81, R82
  | r1 (status : BitVec 7)
  | tokenStartBlock
  | tokenMultiWrite
  | tokenStopTran
  | drespAccepted (hi : BitVec 4) (lo : BitVec 1)
  | drespCrcRejected (hi : BitVec 4) (lo : BitVec 1)
  | drespWriteError (hi : BitVec 4) (lo : BitVec 1)
deriving DecidableEq, Repr

/-- The positions the block tells its formats apart by: "by position in its own sequence, never by
content" (30_encoding.md R72). -/
inductive Slot where
  /-- Six bytes from the block to the card (R73). -/
  | command
  /-- One polled byte after a frame (R77). -/
  | response
  /-- One token byte before a block, or after the last block of WRN (R81). -/
  | token
  /-- One byte after a written block (R82). -/
  | dataResponse
deriving DecidableEq, Repr

/-- What an instruction is read from: a request word the requester writes to CTRL, or the bytes at one
position of the block's own sequence. -/
inductive Fetch where
  | request (w : Word)
  | wire (slot : Slot) (bytes : List Byte)
deriving DecidableEq, Repr

end Sys2Proof
end

