-- ==== Sys2Proof/WellFormed.lean ====
section
/-! DEFINITION. The checks an instruction passes when it is one the block issues or receives:
30_encoding.md R75 fixes the argument and the CRC operand of each command. -/
namespace Sys2Proof

/-- R75: the argument is the constant `c` and the CRC field is zero. -/
abbrev constArg (c arg : Word) (crc7 : BitVec 7) : Prop := arg = c ∧ crc7 = 0#7

/-- R75: any argument (an adjusted sector address, or a count), and the CRC field is zero. -/
abbrev anyArg (_arg : Word) (crc7 : BitVec 7) : Prop := crc7 = 0#7

/-- The instruction is one of the forms R70, R71, R75, R77, R81 and R82 give. CMD0 carries CRC7 0x4A
(byte 5 0x95) and CMD8 0x43 (byte 5 0x87); ACMD41 carries the HCS bit or nothing (R75, R88). -/
abbrev Instr.wf : Instr → Prop
  | .cmd0 a c => a = 0x00000000#32 ∧ c = 0x4A#7
  | .cmd1 a c => constArg 0x00000000#32 a c
  | .cmd8 a c => a = 0x000001AA#32 ∧ c = 0x43#7
  | .cmd9 a c => constArg 0x00000000#32 a c
  | .cmd10 a c => constArg 0x00000000#32 a c
  | .cmd12 a c => constArg 0x00000000#32 a c
  | .acmd13 a c => constArg 0x00000000#32 a c
  | .cmd16 a c => constArg 0x00000200#32 a c
  | .cmd17 a c => anyArg a c
  | .cmd18 a c => anyArg a c
  | .cmd23 a c => anyArg a c
  | .cmd24 a c => anyArg a c
  | .cmd25 a c => anyArg a c
  | .cmd32 a c => anyArg a c
  | .cmd33 a c => anyArg a c
  | .cmd38 a c => constArg 0x00000000#32 a c
  | .acmd41 a c => (a = 0x40000000#32 ∨ a = 0x00000000#32) ∧ c = 0#7
  | .acmd51 a c => constArg 0x00000000#32 a c
  | .cmd55 a c => constArg 0x00000000#32 a c
  | .cmd58 a c => constArg 0x00000000#32 a c
  | .detect | .init | .deinit | .rd1 | .rdn | .wr1 | .wrn | .erase | .info | .stat => True
  | .reserved0 | .reservedB | .reservedC | .reservedD | .reservedE | .reservedF => True
  | .r1 _ | .tokenStartBlock | .tokenMultiWrite | .tokenStopTran => True
  | .drespAccepted _ _ | .drespCrcRejected _ _ | .drespWriteError _ _ => True

end Sys2Proof
end

