-- ==== Sys2Proof/Decode.lean ====
section
/-! DEFINITION. The decoder of every format of spec/30_encoding.md, total and rejecting by name, and the
encoder written from the same tables; the command frame of R73. -/
namespace Sys2Proof

/-- Why the bytes at a position are no instruction. -/
inductive DecodeError where
  /-- A CTRL write with START = 0 "selects nothing" (R70). -/
  | startClear
  /-- The number of bytes is not the format's (R72). -/
  | wrongLength
  /-- Byte 0 of a frame is none of R75's: "The block issues exactly these commands". -/
  | notACommand
  /-- Bit 7 of a response byte is 1 (R77). -/
  | noResponse
  /-- The byte is none of the three tokens of R81. -/
  | notAToken
  /-- The masked value is "not a defined status" (R82); the machine classifies it as a rejection. -/
  | undefinedStatus
deriving DecidableEq, Repr

/-! ### The command frame, R73 -/

/-- The argument's four bytes, most significant first (R56, R73). -/
def argBytes (a : Word) : List Byte :=
  [a.extractLsb' 24 8, a.extractLsb' 16 8, a.extractLsb' 8 8, a.extractLsb' 0 8]

/-- The word whose bytes, most significant first, are `b0 b1 b2 b3` (R37, R56). -/
def wordOfBytes (b0 b1 b2 b3 : Byte) : Word := b0 ++ b1 ++ b2 ++ b3

/-- The six bytes of a command: `0x40 | (idx & 0x3F)`, the argument most significant byte first,
`crc | 0x01` (R73, R74). -/
def frame (idx : Byte) (arg : Word) (crc : Byte) : List Byte :=
  (0x40#8 ||| (idx &&& 0x3F#8)) :: (argBytes arg ++ [crc ||| 0x01#8])

/-- The 8-bit CRC operand whose bits 7:1 are the CRC7 field; its bit 0 is forced to 1 in the frame. -/
def crcOperand (crc7 : BitVec 7) : Byte := crc7 ++ 0#1

/-! ### Encoding -/

/-- The request word of an operation code: START = 1, the ignored bits 30:4 zero, OP in bits 3:0 (R70). -/
def requestWord (op : BitVec 4) : Word := 0x80000000#32 ||| op.setWidth 32

/-- The frame of the command with index `idx`, at the command position. -/
def encodeCommand (idx : Nat) (arg : Word) (crc7 : BitVec 7) : Fetch :=
  .wire .command (frame (BitVec.ofNat 8 idx) arg (crcOperand crc7))

/-- A data-response byte: ignored bits 7:4, status bits 3:1, ignored bit 0 (R82). -/
def drespByte (hi : BitVec 4) (status : BitVec 3) (lo : BitVec 1) : Byte := hi ++ status ++ lo

/-- The words of an instruction, from R70, R71, R73, R75, R77, R81 and R82. -/
def encode : Instr → Fetch
  | .detect => .request (requestWord 0x1#4)
  | .init => .request (requestWord 0x2#4)
  | .deinit => .request (requestWord 0x3#4)
  | .rd1 => .request (requestWord 0x4#4)
  | .rdn => .request (requestWord 0x5#4)
  | .wr1 => .request (requestWord 0x6#4)
  | .wrn => .request (requestWord 0x7#4)
  | .erase => .request (requestWord 0x8#4)
  | .info => .request (requestWord 0x9#4)
  | .stat => .request (requestWord 0xA#4)
  | .reserved0 => .request (requestWord 0x0#4)
  | .reservedB => .request (requestWord 0xB#4)
  | .reservedC => .request (requestWord 0xC#4)
  | .reservedD => .request (requestWord 0xD#4)
  | .reservedE => .request (requestWord 0xE#4)
  | .reservedF => .request (requestWord 0xF#4)
  | .cmd0 a c => encodeCommand 0 a c
  | .cmd1 a c => encodeCommand 1 a c
  | .cmd8 a c => encodeCommand 8 a c
  | .cmd9 a c => encodeCommand 9 a c
  | .cmd10 a c => encodeCommand 10 a c
  | .cmd12 a c => encodeCommand 12 a c
  | .acmd13 a c => encodeCommand 13 a c
  | .cmd16 a c => encodeCommand 16 a c
  | .cmd17 a c => encodeCommand 17 a c
  | .cmd18 a c => encodeCommand 18 a c
  | .cmd23 a c => encodeCommand 23 a c
  | .cmd24 a c => encodeCommand 24 a c
  | .cmd25 a c => encodeCommand 25 a c
  | .cmd32 a c => encodeCommand 32 a c
  | .cmd33 a c => encodeCommand 33 a c
  | .cmd38 a c => encodeCommand 38 a c
  | .acmd41 a c => encodeCommand 41 a c
  | .acmd51 a c => encodeCommand 51 a c
  | .cmd55 a c => encodeCommand 55 a c
  | .cmd58 a c => encodeCommand 58 a c
  | .r1 st => .wire .response [0#1 ++ st]
  | .tokenStartBlock => .wire .token [0xFE#8]
  | .tokenMultiWrite => .wire .token [0xFC#8]
  | .tokenStopTran => .wire .token [0xFD#8]
  | .drespAccepted hi lo => .wire .dataResponse [drespByte hi 0b010#3 lo]
  | .drespCrcRejected hi lo => .wire .dataResponse [drespByte hi 0b101#3 lo]
  | .drespWriteError hi lo => .wire .dataResponse [drespByte hi 0b110#3 lo]

/-! ### Decoding -/

/-- The operation a 4-bit OP selects: "every 4-bit OP value has a meaning" (R70, R71, R91). -/
def requestOf (op : BitVec 4) : Instr :=
  match op.toNat with
  | 0x1 => .detect
  | 0x2 => .init
  | 0x3 => .deinit
  | 0x4 => .rd1
  | 0x5 => .rdn
  | 0x6 => .wr1
  | 0x7 => .wrn
  | 0x8 => .erase
  | 0x9 => .info
  | 0xA => .stat
  | 0xB => .reservedB
  | 0xC => .reservedC
  | 0xD => .reservedD
  | 0xE => .reservedE
  | 0xF => .reservedF
  | _ => .reserved0

/-- The command whose frame starts with this byte (R75, column "byte 0"). -/
def commandOf (byte0 : Byte) (arg : Word) (crc7 : BitVec 7) : Except DecodeError Instr :=
  match byte0.toNat with
  | 0x40 => .ok (.cmd0 arg crc7)
  | 0x41 => .ok (.cmd1 arg crc7)
  | 0x48 => .ok (.cmd8 arg crc7)
  | 0x49 => .ok (.cmd9 arg crc7)
  | 0x4A => .ok (.cmd10 arg crc7)
  | 0x4C => .ok (.cmd12 arg crc7)
  | 0x4D => .ok (.acmd13 arg crc7)
  | 0x50 => .ok (.cmd16 arg crc7)
  | 0x51 => .ok (.cmd17 arg crc7)
  | 0x52 => .ok (.cmd18 arg crc7)
  | 0x57 => .ok (.cmd23 arg crc7)
  | 0x58 => .ok (.cmd24 arg crc7)
  | 0x59 => .ok (.cmd25 arg crc7)
  | 0x60 => .ok (.cmd32 arg crc7)
  | 0x61 => .ok (.cmd33 arg crc7)
  | 0x66 => .ok (.cmd38 arg crc7)
  | 0x69 => .ok (.acmd41 arg crc7)
  | 0x73 => .ok (.acmd51 arg crc7)
  | 0x77 => .ok (.cmd55 arg crc7)
  | 0x7A => .ok (.cmd58 arg crc7)
  | _ => .error .notACommand

/-- R1: bit 7 = 0 (R77). -/
def responseOf (b : Byte) : Except DecodeError Instr :=
  if b.msb then .error .noResponse else .ok (.r1 (b.extractLsb' 0 7))

/-- The three tokens of R81. -/
def tokenOf (b : Byte) : Except DecodeError Instr :=
  match b.toNat with
  | 0xFE => .ok .tokenStartBlock
  | 0xFC => .ok .tokenMultiWrite
  | 0xFD => .ok .tokenStopTran
  | _ => .error .notAToken

/-- The data responses of R82, told apart by the masked value `d & 0x0E`. -/
def drespOf (b : Byte) : Except DecodeError Instr :=
  let hi := b.extractLsb' 4 4
  let lo := b.extractLsb' 0 1
  match (b &&& 0x0E#8).toNat with
  | 0x04 => .ok (.drespAccepted hi lo)
  | 0x0A => .ok (.drespCrcRejected hi lo)
  | 0x0C => .ok (.drespWriteError hi lo)
  | _ => .error .undefinedStatus

/-- The instruction at a position, or why there is none. Bit 0 of a frame's byte 5 is no operand: R73 forces
it to 1 when the frame is sent (log 11). -/
def decode : Fetch → Except DecodeError Instr
  | .request w => if w.msb then .ok (requestOf (w.extractLsb' 0 4)) else .error .startClear
  | .wire .command [b0, b1, b2, b3, b4, b5] => commandOf b0 (wordOfBytes b1 b2 b3 b4) (b5.extractLsb' 1 7)
  | .wire .response [b] => responseOf b
  | .wire .token [b] => tokenOf b
  | .wire .dataResponse [b] => drespOf b
  | .wire _ _ => .error .wrongLength

/-! ### The opcode table's words -/

/-- The position a one-byte row of the opcode table stands at. The table's own match and mask overlap here
(R72 tells the formats apart by position), so the row with the longest fixed pattern is taken: a whole
byte (a token, or byte 0 of a command), then the three status bits of a data response, then R1 (log 10). -/
def tableSlot (b : Byte) : Slot :=
  if (tokenOf b).isOk then .token
  else if (commandOf b 0#32 0#7).isOk then .command
  else if (drespOf b).isOk then .dataResponse
  else .response

/-- The bytes of a number, the least significant first: `n` of them. -/
def leBytes : Nat → Nat → List Byte
  | 0, _ => []
  | n + 1, w => BitVec.ofNat 8 w :: leBytes n (w / 256)

/-- The fetch a word of the opcode table stands for: a 32-bit CTRL write, a byte, or a frame whose first
byte is the least significant. -/
def tableFetch (nbits w : Nat) : Fetch :=
  if nbits = 32 then .request (BitVec.ofNat 32 w)
  else if nbits ≤ 8 then
    match tableSlot (BitVec.ofNat 8 w) with
    | .command => .wire .command (leBytes 6 w)
    | slot => .wire slot (leBytes 1 w)
  else .wire .command (leBytes 6 w)

/-- The instruction the decoder reads from a word numbered as spec/opcode_table.json numbers it. -/
def decodeTableWord (nbits w : Nat) : Option Instr := (decode (tableFetch nbits w)).toOption

end Sys2Proof
end

