-- ==== Sys2Proof/Config.lean ====
section
/-! DEFINITION. The parameters the block takes as arguments (00_scope.md R6), and the free values: the
inputs the spec leaves open, each an opaque constant nothing can evaluate (assumption log 1 to 4). -/
namespace Sys2Proof

/-- A range of buffer-memory addresses: `size` bytes from `base`. -/
structure Region where
  base : Nat
  size : Nat
deriving DecidableEq, Repr

/-- The parameters of 00_scope.md R6, and the buffer addresses the platform does not admit
(20_memory.md R55, 92_eei_decisions.md D38). Reset does not change them (R250). -/
structure Config where
  /-- Dummy bytes INIT sends with chip-select deasserted. -/
  rampUpBytes : Nat
  /-- Most response polls after a command frame. -/
  cmdRespTries : Nat
  /-- Most go-idle commands in SpiIdle. -/
  goIdleTries : Nat
  /-- Most interface-condition attempts in VoltageCheck. -/
  vcheckTries : Nat
  /-- Most activation iterations, SD and MMC. -/
  activateTries : Nat
  /-- Bound of WaitIdle. -/
  idleWaitTries : Nat
  /-- Bound of WaitToken. -/
  tokenWaitTries : Nat
  /-- Bound of WaitWriteBusy. -/
  writeBusyTries : Nat
  /-- Bound of WaitEraseBusy. -/
  eraseBusyTries : Nat
  /-- Fillers between a write command's response and the first data token. -/
  writeGapBytes : Nat
  /-- Whether WRN sends its set-block-count as an application command. -/
  setBlkCntAppPrefix : Bool
  /-- The presence level that means "card present". -/
  cdActiveLevel : Bool
  /-- Width in bits of buffer-memory addresses. -/
  bufAddrWidth : Nat
  /-- Addresses at which the platform admits no read by the block (log 6). -/
  noRead : List Region
  /-- Addresses at which the platform admits no write by the block (log 6). -/
  noWrite : List Region
deriving DecidableEq, Repr

/-- The constraints of R6 on the parameters. -/
abbrev Config.wf (c : Config) : Prop :=
  2500 ≤ c.rampUpBytes ∧ 1 ≤ c.cmdRespTries ∧ 1 ≤ c.goIdleTries ∧ 1 ≤ c.vcheckTries ∧
  1 ≤ c.activateTries ∧ 1 ≤ c.idleWaitTries ∧ 1 ≤ c.tokenWaitTries ∧ 1 ≤ c.writeBusyTries ∧
  1 ≤ c.eraseBusyTries ∧ 3 ≤ c.writeGapBytes ∧ 1 ≤ c.bufAddrWidth

/-- FREE VALUE (log 1): the byte the card answers at the n-th exchange, where `State.card` lists none.
R5: "The value of that byte is a free input of the exchange, a draw under no law." -/
opaque Config.cardByte : Nat → Byte

/-- FREE VALUE (log 2): the presence level at the n-th sample, where `State.pins` lists none (R230). -/
opaque Config.pinLevel : Nat → Bool

/-- FREE VALUE (log 3): which value the n-th racing buffer read gives, where `State.picks` lists none
(20_memory.md R64). -/
opaque Config.raceChoice : Nat → Nat

/-- FREE VALUE (log 4): the presence level that means "card present"; 92_eei_decisions.md D31 leaves it OPEN. -/
opaque Config.cdActive : Bool

/-- The default column of R6; CD_ACTIVE_LEVEL, which has no default, is the free constant, and the
platform admits every buffer address (log 4, log 6). -/
def Config.defaults : Config where
  rampUpBytes := 2500
  cmdRespTries := 10
  goIdleTries := 100
  vcheckTries := 10
  activateTries := 50000
  idleWaitTries := 50000
  tokenWaitTries := 50000
  writeBusyTries := 500000
  eraseBusyTries := 1000000
  writeGapBytes := 3
  setBlkCntAppPrefix := true
  cdActiveLevel := Config.cdActive
  bufAddrWidth := 32
  noRead := []
  noWrite := []

end Sys2Proof
end

