-- ==== Sys2Proof/Machine/State.lean ====
section
/-! DEFINITION. The state of the block and of what stands beside it: every register of 10_state.md, buffer
memory, the parameters, the inputs still to come and the trace; the state after reset (70_reset_and_hazards.md
R250); and the reasons a step can stop. -/
namespace Sys2Proof.Machine

/-- FAMILY (R31); 5 to 7 are never held. -/
inductive Family where
  | none | mmc | sdscV1 | sdscV2 | sdhc
deriving DecidableEq, Repr

/-- The three outcomes of an operation (R220); RESULT = 3 is never produced. -/
inductive Result where
  | ok | fail | illegal
deriving DecidableEq, Repr

/-- The causes of R221, internal names no register holds. -/
inductive Cause where
  | reservedOp | notInit | idleTimeout | vcheckMismatch | activateTimeout | mmcActivateTimeout
  | blocklenRejected | readyTimeout | cmdRejected | tokenFail | dataRejected | writeBusyTimeout
  | eraseBusyTimeout | stopRejected | setblkcntRejected | familyUnsupported
deriving DecidableEq, Repr

/-- RES, the hidden outcome accumulator of RDN and WRN: "It holds OK or FAIL(cause)" (R39, R170). -/
inductive Accum where
  | ok
  | failed (c : Cause)
deriving DecidableEq, Repr

/-- INIT's named states (R33, R141); the DOC's PoweredOff is SEQ = IDLE. -/
inductive InitState where
  | rampUp | spiIdle | voltageCheck | appCmdProbe | activating | familyResolved | blockLenFixed | ready
deriving DecidableEq, Repr

/-- SEQ, the sequencer's control point (R33): idle; the statement it stands before, in the pseudocode of the running
operation's rule (which one L_OP says), while INIT runs with the named state it is in (R141); or a statement of Run after the
body (R9). A statement is named by its line, the first under `Body(..)` being 1 and a line of comment counting, and its place
on that line (log 23). `wire` is the model's own point: the sequencer stands before one wire format alone (log 9). -/
inductive Seq where
  | idle
  | body (line part : Nat)
  | init (state : InitState) (line part : Nat)
  | epilogue (line part : Nat)
  | wire (slot : Slot) (bytes : List Byte)
deriving DecidableEq, Repr

/-- The block's events: bus events and buffer accesses (R5, R51, R234). -/
inductive Event where
  | select
  | deselect
  | xchg (out inp : Byte)
  | memRead (addr : Nat) (v : Byte)
  | memWrite (addr : Nat) (v : Byte)
deriving DecidableEq, Repr

/-- A requester access to the register window: its byte offset, its width in bits, and the value where it
is a write (R20, R29). -/
structure Access where
  offset : Nat
  width : Nat
  write : Option Word
deriving DecidableEq, Repr

/-- What the outside does to the block: a register access, the reset input (R251), a requester access to one
byte of buffer memory (R63, R64). DESIGN CHOICE, log 27: a reset is one event, the assertion of the input; it has no held phase,
so an access that comes after it meets a block whose reset is released (R252). -/
inductive Input where
  | access (a : Access)
  | reset
  | bufRead (addr : Nat)
  | bufWrite (addr : Nat) (v : Byte)
deriving DecidableEq, Repr

/-- An input and how many of the block's statements and events come before it (log 5). -/
structure Arrival where
  wait : Nat
  input : Input
deriving DecidableEq, Repr

/-- Everything the spec gives the machine, and the model's own fields (INVENTORY.md, State). -/
structure State where
  /-- STATUS.BUSY (R22). -/
  busy : Bool
  /-- STATUS.RESULT (R22). -/
  result : Result
  /-- STATUS.PRESENT (R22, R140). -/
  present : Bool
  /-- STATUS.DONE (R22). -/
  done : Bool
  /-- ARG0 (R23). -/
  arg0 : Word
  /-- ARG1 (R24). -/
  arg1 : Word
  /-- BUFBASE (R25). -/
  bufbase : Word
  /-- CAPKB (R26). -/
  capkb : Word
  /-- BLKSIZE (R27). -/
  blksize : Word
  /-- FAMILY (R31). -/
  family : Family
  /-- INIT_OK (R32). -/
  initOk : Bool
  /-- SEQ (R33). -/
  seq : Seq
  /-- CS (R34); true is asserted. -/
  cs : Bool
  /-- L_OP (R35). -/
  lOp : BitVec 4
  /-- L_ARG0 (R35). -/
  lArg0 : Word
  /-- L_ARG1 (R35). -/
  lArg1 : Word
  /-- L_BUF (R35). -/
  lBuf : Word
  /-- LAST_R1 (R36). -/
  lastR1 : Byte
  /-- EXT[0..3], EXT[0] received first (R37). -/
  ext : Vector Byte 4
  /-- EXT32 (R37, R105). -/
  ext32 : Word
  /-- LAST_DRESP (R38). -/
  lastDresp : Byte
  /-- CSD_SHADOW (R40). -/
  csdShadow : Vector Byte 16
  /-- The try counter of the current bounded loop (R39). -/
  tries : Nat
  /-- The sector counter k of RDN and WRN (R39). -/
  sector : Nat
  /-- The byte counter i of a payload (R39). -/
  byteIdx : Nat
  /-- RES (R39, R170). -/
  res : Accum
  /-- Buffer memory (R50, R51): address and byte, in canonical form. -/
  mem : List Host.Cell
  /-- The parameters (R6). -/
  cfg : Config
  /-- The model's own: the card's answers still to come (R5, log 1). -/
  card : List Byte
  /-- The model's own: how many exchanges there have been (R61). -/
  xchgs : Nat
  /-- The model's own: the presence levels still to come (R230, log 2). -/
  pins : List Bool
  /-- The model's own: how often the presence input was sampled. -/
  pinReads : Nat
  /-- The model's own: the race choices still to come (R64, log 3). -/
  picks : List Nat
  /-- The model's own: how many race choices were made. -/
  pickCount : Nat
  /-- The model's own: bytes the requester wrote while the operation runs, each with the value that gave way, newest first, and
those both sides wrote, with the value that lost (R64, log 3). What a block read may give beside the present value. -/
  reqOld : List Host.Cell
  /-- The model's own: bytes the block wrote while the operation runs, each with the value that gave way, newest first, and those
both sides wrote, with the value that lost (R64, log 3). What a requester read may give beside the present value. -/
  blkOld : List Host.Cell
  /-- The model's own: what the outside does next, and when (log 5). -/
  inbox : List Arrival
  /-- The model's own: the block's events so far, newest first (R5, R234). -/
  trace : List Event
  /-- The model's own: the value the requester's last read returned (log 13). -/
  rdata : Word
deriving DecidableEq, Repr

/-- The machine right after reset (R250): the spec's values; the hidden counters and RES at the value log 8
names; the default parameters (log 4); buffer memory with nothing listed (log 7); no input to come. -/
def State.reset : State where
  busy := false
  result := .ok
  present := false
  done := false
  arg0 := 0x00000000#32
  arg1 := 0x00000000#32
  bufbase := 0x00000000#32
  capkb := 0x00000000#32
  blksize := 0x00000000#32
  family := .none
  initOk := false
  seq := .idle
  cs := false
  lOp := 0#4
  lArg0 := 0x00000000#32
  lArg1 := 0x00000000#32
  lBuf := 0x00000000#32
  lastR1 := 0xFF#8
  ext := .replicate 4 0x00#8
  ext32 := 0x00000000#32
  lastDresp := 0x00#8
  csdShadow := .replicate 16 0x00#8
  tries := 0
  sector := 0
  byteIdx := 0
  res := .ok
  mem := []
  cfg := Config.defaults
  card := []
  xchgs := 0
  pins := []
  pinReads := 0
  picks := []
  pickCount := 0
  reqOld := []
  blkOld := []
  inbox := []
  trace := []
  rdata := 0x00000000#32

/-- The faults of a step. -/
inductive Fault where
  /-- Raised by `step` alone: the running operation stands at a buffer access the platform does not admit
  ("stuck. The block makes no step, with BUSY = 1", 92_eei_decisions.md D38) and nothing arrives from outside.
  SAFE: the block has no successor state here. -/
  | stuckOnBuffer
deriving DecidableEq, Repr

/-- The refusals of a step. -/
inductive Refusal where
  /-- Raised by a refused arm of `exec`: the instruction has no meaning yet. SAFE. -/
  | notModelled (mnemonic : String)
  /-- Raised by `step` alone: a requester access that is not 32 bits wide or not 4-byte aligned. "A model
  refuses such an access: it does not guess a value" (R29). SAFE. -/
  | accessOutsideInterface
  /-- Raised by `step` alone: the sequencer stands before wire bytes that are none of the formats
  (log 9); no run from reset reaches this. SAFE. -/
  | undecodable
deriving DecidableEq, Repr

end Sys2Proof.Machine
end

