-- ==== Sys2Proof/Machine/Flags.lean ====
section
/-! DEFINITION. The flags: the STATUS word (10_state.md R22), the tests on a response byte (30_encoding.md R77,
R78), the data-response classification (R82), the extended-response fields (R79), and the CRC7 that explains
the two constants of R75 (R88). -/
namespace Sys2Proof.Machine

/-! ### STATUS, R22 -/

/-- STATUS.RESULT's two bits (R220). -/
def resultCode : Result → BitVec 2
  | .ok => 0#2
  | .fail => 1#2
  | .illegal => 2#2

/-- STATUS.FAMILY's three bits (R31). -/
def familyCode : Family → BitVec 3
  | .none => 0#3
  | .mmc => 1#3
  | .sdscV1 => 2#3
  | .sdscV2 => 3#3
  | .sdhc => 4#3

/-- STATUS: DONE[8], PRESENT[7], FAMILY[6:4], INIT_OK[3], RESULT[2:1], BUSY[0], the rest 0 (R22). -/
def statusWord (s : State) : Word :=
  0#23 ++ BitVec.ofBool s.done ++ BitVec.ofBool s.present ++ familyCode s.family ++
    BitVec.ofBool s.initOk ++ resultCode s.result ++ BitVec.ofBool s.busy

/-! ### A response byte, R77 and R78 -/

/-- R1 bit 7 = 0: a response is present (R77, R102). -/
def responsePresent (r : Byte) : Bool := !r.msb

/-- "exactly idle": `r == 0x01`. -/
def exactlyIdle (r : Byte) : Bool := r == 0x01#8

/-- "rejected as illegal": `(r & 0x04) != 0`. -/
def rejectedIllegal (r : Byte) : Bool := (r &&& 0x04#8) != 0x00#8

/-- "idle bit still set": `(r & 0x01) != 0`. -/
def idleBitSet (r : Byte) : Bool := (r &&& 0x01#8) != 0x00#8

/-- "command accepted": `r == 0x00` (R78, R171). -/
def accepted (r : Byte) : Bool := r == 0x00#8

/-! ### Waiting and data, R81 to R83 -/

/-- "A received byte equal to 0xFF means the card is idle or ready" (R83). -/
def busIdle (b : Byte) : Bool := b == 0xFF#8

/-- "During WaitToken, a byte other than 0xFF is the arrived token" (R83). -/
def tokenArrived (b : Byte) : Bool := b != 0xFF#8

/-- The only token accepted before a received payload (R81). -/
def startToken : Byte := 0xFE#8

/-- The token before every sector of a multi-block write (R81). -/
def multiWriteToken : Byte := 0xFC#8

/-- The token that stops a multi-block write (R81). -/
def stopToken : Byte := 0xFD#8

/-- The filler byte (R85). -/
def filler : Byte := 0xFF#8

/-- The meaningful bits of a data-response byte (R82). -/
def drespMask (d : Byte) : Byte := d &&& 0x0E#8

/-- "A block is accepted if and only if m == 0x04" (R82). -/
def drespAccepted (m : Byte) : Bool := m == 0x04#8

/-! ### Extended responses, R79 -/

/-- The check pattern is echoed: EXT32[15:0] = 0x01AA (R79, R142). -/
def echoMatches (v : Word) : Bool := v.extractLsb' 0 16 == 0x01AA#16

/-- OCR bit 30, the high-capacity bit (R79, R142). -/
def ocrHighCapacity (v : Word) : Bool := v.getLsbD 30

/-- EXT32: `EXT[0] ++ EXT[1] ++ EXT[2] ++ EXT[3]` (R37). -/
def extValue (e : Vector Byte 4) : Word := e[0] ++ e[1] ++ e[2] ++ e[3]

/-! ### CRC7, R88 -/

/-- One bit into the CRC7 register, generator x^7 + x^3 + 1 (R88). -/
def crc7Bit (reg : BitVec 7) (bit : Bool) : BitVec 7 :=
  let shifted := reg <<< 1
  if reg.msb != bit then shifted ^^^ 0x09#7 else shifted

/-- The eight bits of a byte, the most significant first, into the CRC7 register. -/
def crc7Byte (reg : BitVec 7) (b : Byte) : BitVec 7 :=
  [7, 6, 5, 4, 3, 2, 1, 0].foldl (fun r i => crc7Bit r (b.getLsbD i)) reg

/-- CRC7 of bytes, register initial value 0 (R88). The block computes none (R87): this only explains the
constants 0x95 and 0x87 of R75. -/
def crc7 (bytes : List Byte) : BitVec 7 := bytes.foldl crc7Byte 0#7

end Sys2Proof.Machine
end

