-- ==== Sys2Proof/Machine/Operands.lean ====
section
/-! DEFINITION. Operand forms: address-adjust (20_memory.md R69), buffer addresses (R51 to R53), the requester's
register window (10_state.md R20 to R29), and the capacity derivation (44_register_ops.md R201). -/
namespace Sys2Proof.Machine

/-! ### Card addresses, R69 -/

/-- Address-adjust: a raw sector index for SDHC, else the byte offset `(s << 9) mod 2^32`. -/
def adjust (f : Family) (s : Word) : Word :=
  match f with
  | .sdhc => s
  | .none | .mmc | .sdscV1 | .sdscV2 => s <<< 9

/-! ### Buffer addresses, R51 -/

/-- "Address arithmetic wraps modulo 2^BUF_ADDR_WIDTH" (R51; log 15). -/
def wrap (width a : Nat) : Nat := a % 2 ^ width

/-- A buffer address (R51). -/
def bufAddr (s : State) (a : Nat) : Nat := wrap s.cfg.bufAddrWidth a

/-- The address `L_BUF + off`, before the wrap (R52, R53). -/
def bufOff (s : State) (off : Nat) : Nat := s.lBuf.toNat + off

/-- An address lies in one of the regions. -/
def inRegions : List Region → Nat → Bool
  | [], _ => false
  | r :: rs, a => (decide (r.base ≤ a) && decide (a < r.base + r.size)) || inRegions rs a

/-! ### The register window, R20 to R29 -/

/-- "Every requester access is a 32-bit access at a 4-byte-aligned offset" (R29). -/
def Access.inInterface (a : Access) : Bool := a.width == 32 && a.offset % 4 == 0

/-- The request word, where the access is a CTRL write with START = 1 (R21, R91). -/
def Access.request? (a : Access) : Option Word :=
  match a.write with
  | none => none
  | some v => if a.offset = 0x00 ∧ v.msb = true then some v else none

/-- A register read: CTRL reads 0, and so does a reserved offset (R20, R21, R28). DESIGN CHOICE, log 24: the block's window has
no end, so every aligned offset from 0x1C on is reserved. -/
def readReg (s : State) (offset : Nat) : Word :=
  match offset with
  | 0x00 => 0x00000000#32
  | 0x04 => statusWord s
  | 0x08 => s.arg0
  | 0x0C => s.arg1
  | 0x10 => s.bufbase
  | 0x14 => s.capkb
  | 0x18 => s.blksize
  | _ => 0x00000000#32

/-- A register write that starts no operation: ARG0, ARG1 and BUFBASE take the value; a write to CTRL with
START = 0, to a read-only register or to a reserved offset (log 24) has no effect (R21 to R28, R91). -/
def writeReg (s : State) (offset : Nat) (v : Word) : State :=
  match offset with
  | 0x08 => { s with arg0 := v }
  | 0x0C => { s with arg1 := v }
  | 0x10 => { s with bufbase := v }
  | _ => s

/-- A requester access to the register window that starts no operation. -/
def accessReg (s : State) (a : Access) : State :=
  match a.write with
  | some v => writeReg s a.offset v
  | none => { s with rdata := readReg s a.offset }

/-! ### Capacity, R201 -/

/-- CSD_STRUCTURE: `c[0][7:6]`. -/
def csdStructure (csd : Vector Byte 16) : BitVec 2 := csd[0].extractLsb' 6 2

/-- READ_BL_LEN: `c[5][3:0]`. -/
def csdReadBlLen (csd : Vector Byte 16) : BitVec 4 := csd[5].extractLsb' 0 4

/-- C_SIZE of CSD v1: `(c[6][1:0] << 10) | (c[7] << 2) | c[8][7:6]`, 12 bits. -/
def csdCSizeV1 (csd : Vector Byte 16) : BitVec 12 :=
  csd[6].extractLsb' 0 2 ++ csd[7] ++ csd[8].extractLsb' 6 2

/-- C_SIZE_MULT of CSD v1: `(c[9][1:0] << 1) | c[10][7]`, 3 bits. -/
def csdCSizeMult (csd : Vector Byte 16) : BitVec 3 := csd[9].extractLsb' 0 2 ++ csd[10].extractLsb' 7 1

/-- C_SIZE of CSD v2: `(c[7][5:0] << 16) | (c[8] << 8) | c[9]`, 22 bits. -/
def csdCSizeV2 (csd : Vector Byte 16) : BitVec 22 := csd[7].extractLsb' 0 6 ++ csd[8] ++ csd[9]

/-- CapacityKB (R201): exact integers, then the 32-bit result. CSD_STRUCTURE = 1 selects v2, every other value v1. -/
def capacityKB (csd : Vector Byte 16) : Word :=
  let blLen := (csdReadBlLen csd).toNat
  if csdStructure csd = 1#2 then
    BitVec.ofNat 32 (((csdCSizeV2 csd).toNat + 1) * 2 ^ blLen)
  else
    BitVec.ofNat 32
      ((((csdCSizeV1 csd).toNat + 1) * 2 ^ ((csdCSizeMult csd).toNat + 2) * 2 ^ blLen) / 1024)

end Sys2Proof.Machine
end

