-- ==== Sys2Proof/Machine/Ops.lean ====
section
/-! DEFINITION. The named operations over the state: the sequencer's statements and events (00_scope.md R5, R8),
buffer memory (20_memory.md R51, R64), what arrives from outside (R63, 70_reset_and_hazards.md R251), and the
start, pre-checks and completion of an operation, which stand in for taking an exception and returning from one
(60_exceptions.md R222 to R224, 00_scope.md R9). -/
namespace Sys2Proof.Machine

/-- Why a body ends before its last statement. -/
inductive Stop where
  /-- `raise Fail(cause)` or `raise Illegal(cause)` (R8). -/
  | raised (c : Cause)
  /-- The reset input: the operation "is abandoned at the current statement" (R251). -/
  | abandoned
  /-- A buffer access the platform does not admit: "stuck, with BUSY = 1" (R55, D38). -/
  | stuck
deriving DecidableEq, Repr

/-- A piece of the sequencer's work: it changes the state, and gives a value or stops. -/
abbrev Blk (α : Type) := EStateM Stop State α

/-- `raise`: it ends the body at once (R8, R224). -/
def raise (c : Cause) : Blk Unit := throw (.raised c)

/-! ### Buffer memory as data -/

/-- What an unlisted address reads as (log 7). -/
def memDefault : Byte := 0x00#8

/-- The byte at an address. -/
def memGet : List Host.Cell → Nat → Byte
  | [], _ => memDefault
  | (b, v) :: m, a => if a = b then v else memGet m a

/-- The cell of an address put before a memory whose addresses are all higher: none if it holds what an
unlisted address reads as. -/
def memCons (a : Nat) (v : Byte) (m : List Host.Cell) : List Host.Cell :=
  if v = memDefault then m else (a, v) :: m

/-- The memory with one byte written, in canonical form. -/
def memPut : List Host.Cell → Nat → Byte → List Host.Cell
  | [], a, v => memCons a v []
  | (b, w) :: m, a, v =>
    if a < b then memCons a v ((b, w) :: m)
    else if a = b then memCons a v m
    else (b, w) :: memPut m a v

/-- The canonical form: addresses strictly rising, no cell holding what an unlisted address reads as. -/
def memWf : List Host.Cell → Bool
  | [] => true
  | (a, v) :: m => (v != memDefault) && m.all (fun c => decide (a < c.1)) && memWf m

/-! ### What arrives from outside -/

/-- The block's state at its reset values (R250, R251). What stands beside the block stays; "If CS was 1, the
chip-select line is deasserted without the trailing byte of Release" (log 19). -/
def resetBlock (s : State) : State :=
  { State.reset with
    mem := s.mem, cfg := s.cfg, card := s.card, xchgs := s.xchgs, pins := s.pins, pinReads := s.pinReads,
    picks := s.picks, pickCount := s.pickCount, inbox := s.inbox, rdata := s.rdata,
    trace := if s.cs then .deselect :: s.trace else s.trace }

/-- The values a list of overwritten bytes records for one address, newest first. -/
def oldValues (a : Nat) : List Host.Cell → List Byte
  | [] => []
  | (b, v) :: m => if a = b then v :: oldValues a m else oldValues a m

/-- One of the values a racing read may give: the current one or one that was overwritten while the operation
runs (R64). The choice is free (log 3). -/
def racePick (s : State) (cur : Byte) (olds : List Byte) : Byte × State :=
  if olds.isEmpty then (cur, s)
  else
    let k := match s.picks with
      | [] => Config.raceChoice s.pickCount
      | p :: _ => p
    ((cur :: olds).getD (k % (olds.length + 1)) cur,
      { s with picks := s.picks.tail, pickCount := s.pickCount + 1 })

/-- A requester read of one buffer byte: while the block runs, a byte the block has written in this operation may
read old or new (R64). -/
def requesterRead (s : State) (a : Nat) : State :=
  let a := bufAddr s a
  let (v, s') := racePick s (memGet s.mem a) (if s.busy then oldValues a s.blkOld else [])
  { s' with rdata := v.setWidth 32 }

/-- What a write of `v` leaves in a byte that holds `cur`: `v`, or either of the two where the other side wrote the byte while
the operation runs (`raced`). Which one stands is free (R64, R255; log 3). -/
def raceWrite (s : State) (cur v : Byte) (raced : Bool) : Byte × State :=
  racePick s v (if raced then [cur] else [])

/-- The one of the two values that does not stand: it stays one a racing read may give (log 3). -/
def loser (cur v kept : Byte) : Byte := if kept = v then cur else v

/-- A requester write of one buffer byte. While the block runs, the value that gives way stays one the block's read may give.
A byte the block has written in this operation may keep the block's value, and then a requester's read too may give the value that
gave way (R64). DESIGN CHOICE, log 3: where both sides wrote the byte, the losing value is open to the reads of both. -/
def requesterWrite (s : State) (a : Nat) (v : Byte) : State :=
  let a := bufAddr s a
  let cur := memGet s.mem a
  let raced := s.busy && !(oldValues a s.blkOld).isEmpty
  let (w, s') := raceWrite s cur v raced
  let gone := (a, loser cur v w)
  { s' with
    reqOld := if s.busy then gone :: s.reqOld else s.reqOld,
    blkOld := if raced then gone :: s.blkOld else s.blkOld,
    mem := memPut s.mem a w }

/-- What arrives at a statement or event of the running sequencer, in order. A register access is served (a start
while BUSY = 1 is ignored, R227), a reset abandons the operation (R251, log 27). An access outside the interface, and a
start while BUSY = 0, stay for a later step (log 12). A later arrival comes one statement or event nearer. -/
def serve : List Arrival → State → EStateM.Result Stop State Unit
  | [], s => .ok () { s with inbox := [] }
  | a :: rest, s =>
    if a.wait ≠ 0 then .ok () { s with inbox := { a with wait := a.wait - 1 } :: rest }
    else match a.input with
      | .reset => .error .abandoned { resetBlock s with inbox := rest }
      | .bufRead addr => serve rest (requesterRead s addr)
      | .bufWrite addr v => serve rest (requesterWrite s addr v)
      | .access acc =>
        if acc.inInterface = false then .ok () { s with inbox := a :: rest }
        else match acc.request? with
          | none => serve rest (accessReg s acc)
          | some _ => if s.busy then serve rest s else .ok () { s with inbox := a :: rest }

/-- The point before a statement or an event, where inputs land (log 5). -/
def sync : Blk Unit := fun s => serve s.inbox s

/-! ### Statements and events -/

/-- SEQ moves to a statement (R33), and nothing lands before it: the statement before it and it are one change. -/
def moveSeq (p : Seq) : Blk Unit := modify fun s => { s with seq := p }

/-- SEQ moves to a statement (R33); inputs land before the statement runs. -/
def at_ (p : Seq) : Blk Unit := do
  moveSeq p
  sync

/-- SEQ moves to a statement of the running body's pseudocode, by its line and its place on the line (R33, log 23). -/
def part (n k : Nat) : Blk Unit := at_ (.body n k)

/-- SEQ moves to the first, or only, statement of a line of the running body's pseudocode. -/
def line (n : Nat) : Blk Unit := part n 1

/-- An event joins the trace. -/
def emit (e : Event) : Blk Unit := modify fun s => { s with trace := e :: s.trace }

/-- The byte the card answers: the next of its stream, or a free draw (R5, log 1). -/
def cardAnswer (s : State) : Byte :=
  match s.card with
  | [] => Config.cardByte s.xchgs
  | b :: _ => b

/-- The exchange that sends `o` and receives `i` (R60). -/
def exchanged (o i : Byte) : Blk Unit :=
  modify fun s => { s with trace := .xchg o i :: s.trace, xchgs := s.xchgs + 1 }

/-- `Xchg(o)`: one full-duplex exchange (R8). -/
def xchg (o : Byte) : Blk Byte := do
  sync
  let i := cardAnswer (← get)
  modify fun s => { s with card := s.card.tail }
  exchanged o i
  pure i

/-- The exchange of a filler in which the card answers `i` (R8): the position before a byte the card is known
to answer, for the rows of the table that are such bytes (log 20). -/
def receive (i : Byte) : Blk Unit := do
  sync
  exchanged filler i

/-- `repeat n: Xchg(0xFF)`. -/
def fillers : Nat → Blk Unit
  | 0 => pure ()
  | n + 1 => do
    let _ ← xchg filler
    fillers n

/-- `Pin()`: the presence level at this moment (R8, R230, log 2). -/
def pin : Blk Bool := fun s =>
  let l := match s.pins with
    | [] => Config.pinLevel s.pinReads
    | p :: _ => p
  .ok l { s with pins := s.pins.tail, pinReads := s.pinReads + 1 }

/-- `MemRead(a, 1)` (R51). A byte the requester wrote while the operation runs may read old or new (R64). -/
def memRead (a : Nat) : Blk Byte := do
  sync
  let s ← get
  let a := bufAddr s a
  if inRegions s.cfg.noRead a then throw .stuck
  else
    let (v, s') := racePick s (memGet s.mem a) (oldValues a s.reqOld)
    set s'
    emit (.memRead a v)
    pure v

/-- `MemWrite(a, 1, v)` (R51). A byte the requester wrote while the operation runs may keep the requester's value (R64). DESIGN
CHOICE, log 3: the losing value is then open to the reads of both sides, as in `requesterWrite`. -/
def memWrite (a : Nat) (v : Byte) : Blk Unit := do
  sync
  let s ← get
  let a := bufAddr s a
  if inRegions s.cfg.noWrite a then throw .stuck
  else
    let cur := memGet s.mem a
    let raced := !(oldValues a s.reqOld).isEmpty
    let (w, s') := raceWrite s cur v raced
    let gone := (a, loser cur v w)
    set { s' with
      blkOld := gone :: s.blkOld, reqOld := if raced then gone :: s.reqOld else s.reqOld, mem := memPut s.mem a w }
    emit (.memWrite a v)

/-- The hidden try counter takes a value (R39). DESIGN CHOICE, log 26: it counts the attempts left. -/
def setTries (n : Nat) : Blk Unit := modify fun s => { s with tries := n }

/-- The sector counter k takes a value (R39). -/
def setSector (k : Nat) : Blk Unit := modify fun s => { s with sector := k }

/-- The byte counter i takes a value (R39). -/
def setByteIdx (i : Nat) : Blk Unit := modify fun s => { s with byteIdx := i }

/-- `RES <- …` (R170). -/
def setRes (r : Accum) : Blk Unit := modify fun s => { s with res := r }

/-- `return RES`: "ends the body with RES's outcome" (R170). -/
def returnRes : Blk Unit := do
  match (← get).res with
  | .ok => pure ()
  | .failed c => raise c

/-- Line `n` of a body where it is `if not m: raise Fail(c)`. -/
def require (n : Nat) (c : Cause) (m : Blk Bool) : Blk Unit := do
  line n
  let ok ← m
  if ok then pure ()
  else
    part n 2
    raise c

/-- A command whose success is `m == 0x00` (R78, R171). -/
def isAccepted (m : Blk Byte) : Blk Bool := do
  let r ← m
  pure (accepted r)

/-! ### Bus ownership, R100 and R101 -/

/-- Select: `R.CS <- 1` (R100). -/
def select : Blk Unit := do
  sync
  modify fun s => { s with cs := true }
  emit .select

/-- Release: `R.CS <- 0`, then the trailing byte, clocked with chip-select deasserted (R101). -/
def release : Blk Unit := do
  sync
  modify fun s => { s with cs := false }
  emit .deselect
  let _ ← xchg filler

/-! ### Start, pre-checks, completion -/

/-- The outcome of a cause (R221): FAMILY_UNSUPPORTED is ILLEGAL, every other one FAIL. -/
def Cause.outcome : Cause → Result
  | .familyUnsupported => .illegal
  | .reservedOp | .notInit | .idleTimeout | .vcheckMismatch | .activateTimeout | .mmcActivateTimeout
  | .blocklenRejected | .readyTimeout | .cmdRejected | .tokenFail | .dataRejected | .writeBusyTimeout
  | .eraseBusyTimeout | .stopRejected | .setblkcntRejected => .fail

/-- The number R221 gives a cause. -/
def Cause.number : Cause → Nat
  | .reservedOp => 1
  | .notInit => 2
  | .idleTimeout => 3
  | .vcheckMismatch => 4
  | .activateTimeout => 5
  | .mmcActivateTimeout => 6
  | .blocklenRejected => 7
  | .readyTimeout => 8
  | .cmdRejected => 9
  | .tokenFail => 10
  | .dataRejected => 11
  | .writeBusyTimeout => 12
  | .eraseBusyTimeout => 13
  | .stopRejected => 14
  | .setblkcntRejected => 15
  | .familyUnsupported => 16

/-- PreCheck (R223): "The checks run in this order, and the first that applies decides the outcome". -/
def preCheck (op : BitVec 4) (s : State) : Option Cause :=
  let n := op.toNat
  if ¬ (0x1 ≤ n ∧ n ≤ 0xA) then some .reservedOp
  else if (n = 0x8 ∨ n = 0xA) ∧ s.family = .mmc then some .familyUnsupported
  else if 0x4 ≤ n ∧ s.initOk = false then some .notInit
  else none

/-- The first steps of Start (R222): latch OP and the operands, BUSY <- 1, DONE <- 0; no buffer byte has raced yet. -/
def latch (op : BitVec 4) (s : State) : State :=
  { s with
    lOp := op, lArg0 := s.arg0, lArg1 := s.arg1, lBuf := s.bufbase, busy := true, done := false,
    reqOld := [], blkOld := [] }

/-- Complete (R224): RESULT, BUSY <- 0, DONE <- 1, SEQ <- IDLE. "There is no rollback." DESIGN CHOICE, log 25: its statements
are one indivisible change, so no requester access sees BUSY = 0 before DONE = 1. -/
def complete (o : Result) (s : State) : State :=
  { s with result := o, busy := false, done := true, seq := .idle, reqOld := [], blkOld := [] }

/-- The statements of Run after the body (R9): `if R.CS == 1: Release()`, and SEQ before `Complete(outcome)`. -/
def epilogue : Blk Unit := do
  at_ (.epilogue 2 1)
  if (← get).cs then
    at_ (.epilogue 2 2)
    release
  else pure ()
  at_ (.epilogue 3 1)

/-- The end of Run: release the bus, then Complete with the outcome (R9, log 25). A reset in the epilogue abandons it. -/
def finishRun (o : Result) (s : State) : State :=
  match epilogue s with
  | .ok _ s' => complete o s'
  | .error _ s' => s'

/-- Run (R9): "the bus is released exactly once on every path that selected it". An abandoned operation stands at
the reset values (R251); a stuck one stays with BUSY = 1 (D38). -/
def run (body : Blk Unit) (s : State) : State :=
  match body s with
  | .ok _ s' => finishRun .ok s'
  | .error (.raised c) s' => finishRun c.outcome s'
  | .error .abandoned s' => s'
  | .error .stuck s' => s'

/-- The first statement of an operation's body (R33, R141). -/
def firstStatement (op : BitVec 4) : Seq := if op = 0x2#4 then .init .rampUp 1 1 else .body 1 1

/-- A CTRL write with START = 1 (R222). While BUSY = 1 it is ignored (R227). -/
def start (op : BitVec 4) (body : Blk Unit) (s : State) : State :=
  if s.busy then s
  else
    let s1 := latch op s
    match preCheck op s1 with
    | some c => complete c.outcome s1
    | none => run body { s1 with seq := firstStatement op }

/-- The state after a piece of the sequencer's work that stands alone (log 9). -/
def alone {α : Type} (m : Blk α) (s : State) : State :=
  match m s with
  | .ok _ s' => s'
  | .error _ s' => s'

end Sys2Proof.Machine
end

