-- ==== Sys2Proof/Machine/Engine.lean ====
section
/-! DEFINITION. The primitives every operation is written in: the command and response engine
(40_command_engine.md R102 to R107), the bounded waits and the data framing (41_wait_and_data.md R120 to R127). -/
namespace Sys2Proof.Machine

/-! ### Command and response -/

/-- Bytes sent in order, whatever comes back: "the received bytes during the six frame exchanges are discarded" (R102). -/
def sendBytes : List Byte → Blk Unit
  | [] => pure ()
  | b :: bs => do
    let _ ← xchg b
    sendBytes bs

/-- The response polls (R102, R104): at most as many as the bound, up to the first byte with bit 7 = 0; the last
polled byte on exhaustion. -/
def pollResponse : Nat → Byte → Blk Byte
  | 0, last => pure last
  | n + 1, _ => do
    let r ← xchg filler
    setTries n
    if responsePresent r then pure r else pollResponse n r

/-- `R.LAST_R1 <- r` (R102, R36). -/
def takeR1 (r : Byte) : Blk Unit := modify fun s => { s with lastR1 := r }

/-- The stuff byte: "When `idx == 12`, SendCommand exchanges exactly one filler byte after the frame" (R103). -/
def stuffByte (idx : Byte) : Blk Unit := if idx = 12#8 then fillers 1 else pure ()

/-- SendCommand (R102): the frame, the stuff byte after CMD12 (R103), the polls. It does no wait-ready (R107). -/
def sendCommand (idx : Byte) (arg : Word) (crc : Byte) : Blk Byte := do
  sendBytes (frame idx arg crc)
  stuffByte idx
  let n := (← get).cfg.cmdRespTries
  setTries n
  let r ← pollResponse n filler
  takeR1 r
  pure r

/-- `R.EXT[j] <- Xchg(0xFF)` (R105). -/
def receiveExt (j : Fin 4) : Blk Unit := do
  let b ← xchg filler
  modify fun s => { s with ext := s.ext.set j b }

/-- GetExtendedResponse (R105): four bytes, the first received the most significant. -/
def getExtendedResponse : Blk Word := do
  receiveExt 0
  receiveExt 1
  receiveExt 2
  receiveExt 3
  let v := extValue (← get).ext
  modify fun s => { s with ext32 := v }
  pure v

/-- AppCommand (R106): CMD55, and the command itself if the prefix is accepted. -/
def appCommand (idx : Byte) (arg : Word) : Blk Bool := do
  let r ← sendCommand 55#8 0x00000000#32 0x00#8
  if accepted r then
    let r ← sendCommand idx arg 0x00#8
    pure (accepted r)
  else pure false

/-! ### Bounded waits -/

/-- WaitUntil (R120): success on the read that meets the predicate, at most `n` reads, exactly `n` on exhaustion.
It gives whether it succeeded and the last byte read. -/
def waitUntil (p : Byte → Bool) : Nat → Byte → Blk (Bool × Byte)
  | 0, last => pure (false, last)
  | n + 1, _ => do
    let b ← xchg filler
    setTries n
    if p b then pure (true, b) else waitUntil p n b

/-- WaitUntil with the try counter set at the loop's head (R39, R120). -/
def waitFor (p : Byte → Bool) (n : Nat) : Blk (Bool × Byte) := do
  setTries n
  waitUntil p n filler

/-- WaitIdle, the DOC's wait-ready (R121). -/
def waitIdle : Blk Bool := do
  let r ← waitFor busIdle (← get).cfg.idleWaitTries
  pure r.1

/-- WaitToken (R122): the byte read last, which on exhaustion is 0xFF. -/
def waitToken : Blk Byte := do
  let r ← waitFor tokenArrived (← get).cfg.tokenWaitTries
  pure r.2

/-- WaitWriteBusy (R123). -/
def waitWriteBusy : Blk Bool := do
  let r ← waitFor busIdle (← get).cfg.writeBusyTries
  pure r.1

/-- WaitEraseBusy (R124). -/
def waitEraseBusy : Blk Bool := do
  let r ← waitFor busIdle (← get).cfg.eraseBusyTries
  pure r.1

/-! ### Data blocks -/

/-- Payload bytes `i ..`, as many as the second number, each written to buffer memory right after the exchange
that returned it (R54, R125). DESIGN CHOICE, log 26: the byte counter keeps the last index. -/
def receivePayload (dest : Nat) : Nat → Nat → Blk Unit
  | _, 0 => pure ()
  | i, n + 1 => do
    setByteIdx i
    let b ← xchg filler
    memWrite (dest + i) b
    receivePayload dest (i + 1) n

/-- DataReceive (R125): the start token, `len` payload bytes, two discarded CRC bytes. Any other token, or none,
fails "before any payload exchange and before any buffer write". -/
def dataReceive (len : Nat) (dest : Nat) : Blk Bool := do
  let t ← waitToken
  if t = startToken then
    receivePayload dest 0 len
    fillers 2
    pure true
  else pure false

/-- `R.LAST_DRESP <- m`, and whether the block is accepted (R126). -/
def takeDresp (d : Byte) : Blk Bool := do
  modify fun s => { s with lastDresp := drespMask d }
  pure (drespAccepted (drespMask d))

/-- ReadDataResponse (R126): read once, no polling. -/
def readDataResponse : Blk Bool := do
  let d ← xchg filler
  takeDresp d

/-- Payload bytes `i ..`, as many as the second number, each read from buffer memory just before it is sent (R54, R127).
DESIGN CHOICE, log 26: the byte counter keeps the last index. -/
def sendPayload (src : Nat) : Nat → Nat → Blk Unit
  | _, 0 => pure ()
  | i, n + 1 => do
    setByteIdx i
    let b ← memRead (src + i)
    let _ ← xchg b
    sendPayload src (i + 1) n

/-- SendBlock (R127): the token, 512 payload bytes, two filler CRC bytes, the data response. -/
def sendBlock (token : Byte) (src : Nat) : Blk Bool := do
  let _ ← xchg token
  sendPayload src 0 512
  fillers 2
  readDataResponse

end Sys2Proof.Machine
end

