-- ==== Sys2Proof/Machine/Presence.lean ====
section
/-! DEFINITION. Presence, initialization and deinitialization: DETECT (42_initialization.md R140), INIT (R141, R142),
DEINIT (R143), statement by statement (R33, log 23). -/
namespace Sys2Proof.Machine

/-! ### DETECT -/

/-- Body(DETECT): `R.PRESENT <- (Pin() == CD_ACTIVE_LEVEL) ? 1 : 0` (R140). -/
def bodyDetect : Blk Unit := do
  line 1
  let l ← pin
  modify fun s => { s with present := l == s.cfg.cdActiveLevel }
  line 2

/-- DETECT (R140): always OK, no bus event. -/
def execDetect (s : State) : Host.Outcome State Fault Refusal := .next (start 0x1#4 bodyDetect s)

/-! ### INIT -/

/-- `R.FAMILY <- f`: "Only INIT writes FAMILY" (R31). -/
def setFamily (f : Family) : Blk Unit := modify fun s => { s with family := f }

/-- `R.INIT_OK <- b` (R32). -/
def setInitOk (b : Bool) : Blk Unit := modify fun s => { s with initOk := b }

/-- SEQ moves to a statement of INIT, by the named state INIT is in (R141), its line and its place on the line (R33, log 23). -/
def initAt (st : InitState) (n k : Nat) : Blk Unit := at_ (.init st n k)

/-- The end of a bounded loop's iteration: `n <- n - 1`, and with no try left the failure (R142); `n` is the count left, and
`line` the line of `n <- n - 1`. -/
def lastTry (st : InitState) (line n : Nat) (c : Cause) : Blk Unit := do
  initAt st line 1
  setTries n
  initAt st (line + 1) 1
  if n = 0 then
    initAt st (line + 1) 2
    raise c
  else pure ()

/-- SpiIdle (R142): CMD0 until the response is exactly idle, at most as many times as the number (log 14: none for 0). -/
def spiIdleLoop : Nat → Blk Unit
  | 0 => raise .idleTimeout
  | n + 1 => do
    initAt .spiIdle 7 1
    initAt .spiIdle 8 1
    let r ← sendCommand 0#8 0x00000000#32 0x95#8
    initAt .spiIdle 9 1
    if exactlyIdle r then initAt .spiIdle 9 2
    else
      lastTry .spiIdle 10 n .idleTimeout
      spiIdleLoop n

/-- VoltageCheck (R142): CMD8 until it is rejected as illegal (SDSC_V1) or its echo matches (SDSC_V2), at most as many times as
the number. -/
def voltageCheckLoop : Nat → Blk Unit
  | 0 => raise .vcheckMismatch
  | n + 1 => do
    initAt .voltageCheck 14 1
    initAt .voltageCheck 15 1
    let r ← sendCommand 8#8 0x000001AA#32 0x87#8
    initAt .voltageCheck 16 1
    if rejectedIllegal r then
      initAt .voltageCheck 17 1
      setFamily .sdscV1
      initAt .voltageCheck 18 1
    else
      initAt .voltageCheck 19 1
      let v ← getExtendedResponse
      initAt .voltageCheck 20 1
      if echoMatches v then
        initAt .voltageCheck 21 1
        setFamily .sdscV2
        initAt .voltageCheck 22 1
      else
        lastTry .voltageCheck 23 n .vcheckMismatch
        voltageCheckLoop n

/-- AppCmdProbe and Activating (R142): CMD55, which tells MMC when rejected as illegal, then ACMD41 until the idle bit
is clear, at most as many iterations as the number. -/
def activateLoop (hcs : Word) : Nat → Blk Unit
  | 0 => raise .activateTimeout
  | n + 1 => do
    initAt .appCmdProbe 28 1
    initAt .appCmdProbe 29 1
    let r ← sendCommand 55#8 0x00000000#32 0x00#8
    initAt .appCmdProbe 30 1
    if rejectedIllegal r then
      initAt .appCmdProbe 31 1
      setFamily .mmc
      initAt .appCmdProbe 32 1
    else
      initAt .activating 33 1
      let r ← sendCommand 41#8 hcs 0x00#8
      initAt .activating 34 1
      if idleBitSet r then
        lastTry .activating 35 n .activateTimeout
        activateLoop hcs n
      else initAt .activating 34 2

/-- The legacy activation of MMC (R142): CMD1 until the idle bit is clear, at most as many times as the number. -/
def mmcActivateLoop : Nat → Blk Unit
  | 0 => raise .mmcActivateTimeout
  | n + 1 => do
    initAt .familyResolved 40 1
    initAt .familyResolved 41 1
    let r ← sendCommand 1#8 0x00000000#32 0x00#8
    initAt .familyResolved 42 1
    if idleBitSet r then
      lastTry .familyResolved 43 n .mmcActivateTimeout
      mmcActivateLoop n
    else initAt .familyResolved 42 2

/-- ACMD41's argument: HCS when FAMILY = SDSC_V2 at loop entry (R142, D17). -/
def hcsArg (f : Family) : Word :=
  match f with
  | .sdscV2 => 0x40000000#32
  | .none | .mmc | .sdscV1 | .sdhc => 0x00000000#32

/-- `R.FAMILY <- 0; R.INIT_OK <- 0` (R142). Nothing lands between the two statements of the line, since "whenever INIT_OK = 1,
FAMILY is in {1, 2, 3, 4}" (R41; log 28). -/
def clearCard : Blk Unit := do
  setFamily .none
  moveSeq (.init .rampUp 1 2)
  setInitOk false

/-- RampUp (R141, R142): FAMILY and INIT_OK cleared at entry, then fillers with chip-select deasserted. -/
def rampUp : Blk Unit := do
  initAt .rampUp 1 1
  clearCard
  initAt .rampUp 3 1
  fillers (← get).cfg.rampUpBytes

/-- SpiIdle (R141, R142). -/
def spiIdle : Blk Unit := do
  initAt .spiIdle 5 1
  select
  initAt .spiIdle 6 1
  let n := (← get).cfg.goIdleTries
  setTries n
  spiIdleLoop n

/-- VoltageCheck (R141, R142). -/
def voltageCheck : Blk Unit := do
  initAt .voltageCheck 13 1
  let n := (← get).cfg.vcheckTries
  setTries n
  voltageCheckLoop n

/-- AppCmdProbe and Activating (R141, R142). -/
def activate : Blk Unit := do
  initAt .appCmdProbe 26 1
  let hcs := hcsArg (← get).family
  initAt .appCmdProbe 27 1
  let n := (← get).cfg.activateTries
  setTries n
  activateLoop hcs n

/-- FamilyResolved for an SDSC_V2 candidate (R142): bit 30 of its OCR makes it SDHC. -/
def askCapacity : Blk Unit := do
  initAt .familyResolved 46 1
  let _ ← sendCommand 58#8 0x00000000#32 0x00#8
  initAt .familyResolved 47 1
  let v ← getExtendedResponse
  initAt .familyResolved 48 1
  if ocrHighCapacity v then
    initAt .familyResolved 48 2
    setFamily .sdhc
  else pure ()

/-- FamilyResolved (R141, R142): MMC is activated; an SDSC_V2 candidate is asked for its OCR. -/
def resolveFamily : Blk Unit := do
  initAt .familyResolved 38 1
  if (← get).family = .mmc then
    initAt .familyResolved 39 1
    let n := (← get).cfg.activateTries
    setTries n
    mmcActivateLoop n
  else
    initAt .familyResolved 45 1
    if (← get).family = .sdscV2 then askCapacity else pure ()

/-- BlockLenFixed (R141, R142): CMD16(512) unless SDHC, and its response must be 0x00. -/
def fixBlockLen : Blk Unit := do
  initAt .blockLenFixed 51 1
  if (← get).family = .sdhc then pure ()
  else
    initAt .blockLenFixed 52 1
    let r ← sendCommand 16#8 0x00000200#32 0x00#8
    initAt .blockLenFixed 53 1
    if accepted r then pure ()
    else
      initAt .blockLenFixed 53 2
      raise .blocklenRejected

/-- Body(INIT) (R142): the named states of R141 in order. -/
def bodyInit : Blk Unit := do
  rampUp
  spiIdle
  voltageCheck
  activate
  resolveFamily
  fixBlockLen
  initAt .ready 55 1
  setInitOk true
  initAt .ready 56 1

/-- INIT (R142): it needs neither INIT_OK nor PRESENT, and is never ILLEGAL. -/
def execInit (s : State) : Host.Outcome State Fault Refusal := .next (start 0x2#4 bodyInit s)

/-! ### DEINIT -/

/-- Body(DEINIT): `R.INIT_OK <- 0` (R143). -/
def bodyDeinit : Blk Unit := do
  line 1
  setInitOk false
  line 2

/-- DEINIT (R143): always OK, no bus event, FAMILY unchanged. -/
def execDeinit (s : State) : Host.Outcome State Fault Refusal := .next (start 0x3#4 bodyDeinit s)

end Sys2Proof.Machine
end

