-- ==== Sys2Proof/Machine/Registers.lean ====
section
/-! DEFINITION. The register-read operations: INFO (44_register_ops.md R200 to R202) and STAT (R203), statement by
statement as in Machine/Transfer.lean (R33, log 23). -/
namespace Sys2Proof.Machine

/-- The address `L_BUF + off` (R53). -/
def payloadAddress (off : Nat) : Blk Nat := do
  let s ← get
  pure (bufOff s off)

/-- `R.CSD_SHADOW[i] <- b` (R40). -/
def setCsd (i : Fin 16) (b : Byte) : Blk Unit := modify fun s => { s with csdShadow := s.csdShadow.set i b }

/-- The loop of INFO's CSD phase: payload bytes `i ..`, as many as the second number, each to buffer memory and to CSD_SHADOW
(R200). DESIGN CHOICE, log 26: the byte counter keeps the last index. -/
def receiveCsd (dest : Nat) : Nat → Nat → Blk Unit
  | _, 0 => line 7
  | i, n + 1 => do
    line 7
    setByteIdx i
    line 8
    let b ← xchg filler
    line 9
    memWrite (dest + i) b
    line 10
    setCsd (Fin.ofNat 16 i) b
    receiveCsd dest (i + 1) n

/-- The CSD block of INFO: "DataReceive(16, L_BUF), written out so that it also fills CSD_SHADOW" (R200). -/
def csdReceive : Blk Unit := do
  line 5
  let t ← waitToken
  require 6 .tokenFail (pure (t == startToken))
  let dest ← payloadAddress 0
  receiveCsd dest 0 16
  line 11
  fillers 1
  part 11 2
  fillers 1

/-- DataReceive of a register payload at `L_BUF + off` (R53, R125). -/
def receiveRegister (len off : Nat) : Blk Bool := do
  let dest ← payloadAddress off
  dataReceive len dest

/-- The SCR phase of INFO, for non-MMC families (R200, 90_conflicts.md C11). -/
def scrUnlessMmc : Blk Unit := do
  line 17
  let s ← get
  if s.family = .mmc then pure ()
  else
    require 18 .readyTimeout waitIdle
    require 19 .cmdRejected (appCommand 51#8 0x00000000#32)
    require 20 .tokenFail (receiveRegister 8 32)

/-- `R.CAPKB <- CapacityKB(R.CSD_SHADOW)` (R200, R201). -/
def setCapkb : Blk Unit := modify fun s => { s with capkb := capacityKB s.csdShadow }

/-- `R.BLKSIZE <- 512` (R200, R202). -/
def setBlksize : Blk Unit := modify fun s => { s with blksize := 0x00000200#32 }

/-- Body(INFO) (R200). -/
def bodyInfo : Blk Unit := do
  line 1
  select
  require 3 .readyTimeout waitIdle
  require 4 .cmdRejected (isAccepted (sendCommand 9#8 0x00000000#32 0x00#8))
  csdReceive
  require 13 .readyTimeout waitIdle
  require 14 .cmdRejected (isAccepted (sendCommand 10#8 0x00000000#32 0x00#8))
  require 15 .tokenFail (receiveRegister 16 16)
  scrUnlessMmc
  line 22
  setCapkb
  line 23
  setBlksize
  line 24

/-- INFO (R200): never ILLEGAL; on MMC it skips the SCR. -/
def execInfo (s : State) : Host.Outcome State Fault Refusal := .next (start 0x9#4 bodyInfo s)

/-- Body(STAT) (R203). The second R2 byte is read and discarded. -/
def bodyStat : Blk Unit := do
  line 1
  select
  require 2 .readyTimeout waitIdle
  require 3 .cmdRejected (appCommand 13#8 0x00000000#32)
  line 4
  fillers 1
  require 5 .tokenFail (receiveRegister 64 0)
  line 6

/-- STAT (R203): ILLEGAL on MMC, from the pre-check. -/
def execStat (s : State) : Host.Outcome State Fault Refusal := .next (start 0xA#4 bodyStat s)

end Sys2Proof.Machine
end

