-- ==== Sys2Proof/Machine/Reserved.lean ====
section
/-! DEFINITION. The reserved operation codes (30_encoding.md R71): accepted, and completed FAIL (RESERVED_OP) by the
pre-check of R223 with no bus event and no buffer access. -/
namespace Sys2Proof.Machine

/-- The body R71 gives a reserved OP: `raise Fail(RESERVED_OP)`. The pre-check completes the operation before it. -/
def bodyReserved : Blk Unit := raise .reservedOp

/-- Reserved OP 0x0 (R71). -/
def execReserved0 (s : State) : Host.Outcome State Fault Refusal := .next (start 0x0#4 bodyReserved s)

/-- Reserved OP 0xB (R71). -/
def execReservedB (s : State) : Host.Outcome State Fault Refusal := .next (start 0xB#4 bodyReserved s)

/-- Reserved OP 0xC (R71). -/
def execReservedC (s : State) : Host.Outcome State Fault Refusal := .next (start 0xC#4 bodyReserved s)

/-- Reserved OP 0xD (R71). -/
def execReservedD (s : State) : Host.Outcome State Fault Refusal := .next (start 0xD#4 bodyReserved s)

/-- Reserved OP 0xE (R71). -/
def execReservedE (s : State) : Host.Outcome State Fault Refusal := .next (start 0xE#4 bodyReserved s)

/-- Reserved OP 0xF (R71). -/
def execReservedF (s : State) : Host.Outcome State Fault Refusal := .next (start 0xF#4 bodyReserved s)

end Sys2Proof.Machine
end

