-- ==== Sys2Proof/Machine/Transfer.lean ====
section
/-! DEFINITION. The five block-transfer protocols (43_block_transfer.md R170 to R177). Each body runs inside Run (R9) and
after the pre-checks of R223, statement by statement (R33): the numbers after `line`, `part` and `require` are the lines of the
rule's pseudocode and the places on them (log 23). -/
namespace Sys2Proof.Machine

/-- `Adjust(R.L_ARG0)` (R69). -/
def firstAddress : Blk Word := do
  let s ← get
  pure (adjust s.family s.lArg0)

/-- `Adjust(R.L_ARG1)` (R69), ERASE's last sector. -/
def lastAddress : Blk Word := do
  let s ← get
  pure (adjust s.family s.lArg1)

/-- `R.L_ARG1`, the sector count N of RDN and WRN. -/
def sectorCount : Blk Word := do
  let s ← get
  pure s.lArg1

/-- The address `L_BUF + 512*k` of sector k of the transfer (R52). -/
def sectorAddress (k : Nat) : Blk Nat := do
  let s ← get
  pure (bufOff s (512 * k))

/-- DataReceive of sector k of the transfer (R52, R125). -/
def receiveSector (k : Nat) : Blk Bool := do
  let dest ← sectorAddress k
  dataReceive 512 dest

/-- SendBlock of sector k of the transfer (R52, R127). -/
def sendSector (token : Byte) (k : Nat) : Blk Bool := do
  let src ← sectorAddress k
  sendBlock token src

/-! ### RD1 -/

/-- Body(RD1) (R172). -/
def bodyRd1 : Blk Unit := do
  line 1
  let a ← firstAddress
  line 2
  select
  require 3 .readyTimeout waitIdle
  line 4
  let r ← sendCommand 17#8 a 0x00#8
  require 5 .cmdRejected (pure (accepted r))
  require 6 .tokenFail (receiveSector 0)
  line 7

/-- RD1 (R172): one sector from the card into the buffer. -/
def execRd1 (s : State) : Host.Outcome State Fault Refusal := .next (start 0x4#4 bodyRd1 s)

/-! ### RDN -/

/-- The sector loop of RDN, from sector `k`, as many sectors as the second number: "first failure ends the loop" (R173).
DESIGN CHOICE, log 26: the sector counter keeps the last sector's number, and N = 0 does not touch it. -/
def rdnLoop : Nat → Nat → Blk Unit
  | _, 0 => line 7
  | k, n + 1 => do
    line 7
    setSector k
    line 8
    let ok ← receiveSector k
    if ok then rdnLoop (k + 1) n
    else
      line 9
      setRes (.failed .tokenFail)
      line 10

/-- `if RES == OK and r != 0x00: RES <- Fail(STOP_REJECTED)` (R173). -/
def checkStop (r : Byte) : Blk Unit := do
  line 12
  let s ← get
  if s.res = .ok ∧ accepted r = false then
    part 12 2
    setRes (.failed .stopRejected)
  else pure ()

/-- Body(RDN) (R173): the stop command always follows the loop. -/
def bodyRdn : Blk Unit := do
  line 1
  let a ← firstAddress
  part 1 2
  let n ← sectorCount
  line 2
  select
  require 3 .readyTimeout waitIdle
  line 4
  let r ← sendCommand 18#8 a 0x00#8
  require 5 .cmdRejected (pure (accepted r))
  line 6
  setRes .ok
  rdnLoop 0 n.toNat
  line 11
  let r ← sendCommand 12#8 0x00000000#32 0x00#8
  checkStop r
  line 13
  returnRes

/-- RDN (R173): L_ARG1 consecutive sectors from the card into the buffer. -/
def execRdn (s : State) : Host.Outcome State Fault Refusal := .next (start 0x5#4 bodyRdn s)

/-! ### WR1 -/

/-- `repeat WRITE_GAP_BYTES: Xchg(0xFF)` (R174, R175). -/
def writeGap : Blk Unit := do
  let s ← get
  fillers s.cfg.writeGapBytes

/-- Body(WR1) (R174). -/
def bodyWr1 : Blk Unit := do
  line 1
  let a ← firstAddress
  line 2
  select
  require 3 .readyTimeout waitIdle
  line 4
  let r ← sendCommand 24#8 a 0x00#8
  require 5 .cmdRejected (pure (accepted r))
  line 6
  writeGap
  require 7 .dataRejected (sendSector startToken 0)
  require 8 .writeBusyTimeout waitWriteBusy
  line 9

/-- WR1 (R174): one sector from the buffer to the card. -/
def execWr1 (s : State) : Host.Outcome State Fault Refusal := .next (start 0x6#4 bodyWr1 s)

/-! ### WRN -/

/-- The set-block-count of WRN, for non-MMC families: ACMD23 or CMD23 with the count (R175, D26). -/
def announceCount (n : Word) : Blk Bool := do
  line 5
  let s ← get
  if s.cfg.setBlkCntAppPrefix then
    part 5 2
    appCommand 23#8 n
  else
    line 6
    isAccepted (sendCommand 23#8 n 0x00#8)

/-- `if R.FAMILY != 1`: the pre-announced count, "aborting early on rejection" (R175). -/
def announceUnlessMmc (n : Word) : Blk Unit := do
  line 4
  let s ← get
  if s.family = .mmc then pure ()
  else
    let ok ← announceCount n
    require 7 .setblkcntRejected (pure ok)

/-- The sector loop of WRN, from sector `k`, as many sectors as the second number: a rejection or a busy timeout ends it (R175).
DESIGN CHOICE, log 26: the sector counter keeps the last sector's number, and N = 0 does not touch it. -/
def wrnLoop : Nat → Nat → Blk Unit
  | _, 0 => line 12
  | k, n + 1 => do
    line 12
    setSector k
    line 13
    let ok ← sendSector multiWriteToken k
    if ok then
      line 15
      let ready ← waitWriteBusy
      if ready then wrnLoop (k + 1) n
      else
        line 16
        setRes (.failed .writeBusyTimeout)
        part 16 2
    else
      line 14
      setRes (.failed .dataRejected)
      part 14 2

/-- `if not WaitIdle(): if RES == OK: RES <- Fail(READY_TIMEOUT)` (R175). -/
def closeWait : Blk Unit := do
  line 19
  let ready ← waitIdle
  if ready then pure ()
  else
    line 20
    let s ← get
    if s.res = .ok then
      part 20 2
      setRes (.failed .readyTimeout)
    else pure ()

/-- Body(WRN) (R175): the stop token, the trailing byte and the wait-ready always follow the loop. -/
def bodyWrn : Blk Unit := do
  line 1
  let a ← firstAddress
  part 1 2
  let n ← sectorCount
  line 2
  select
  require 3 .readyTimeout waitIdle
  announceUnlessMmc n
  line 8
  let r ← sendCommand 25#8 a 0x00#8
  require 9 .cmdRejected (pure (accepted r))
  line 10
  writeGap
  line 11
  setRes .ok
  wrnLoop 0 n.toNat
  line 17
  let _ ← xchg stopToken
  line 18
  fillers 1
  closeWait
  line 21
  returnRes

/-- WRN (R175): L_ARG1 consecutive sectors from the buffer to the card. -/
def execWrn (s : State) : Host.Outcome State Fault Refusal := .next (start 0x7#4 bodyWrn s)

/-! ### ERASE -/

/-- Body(ERASE) (R176). Neither the range nor the order of the endpoints is checked (D30). -/
def bodyErase : Blk Unit := do
  line 1
  let a0 ← firstAddress
  part 1 2
  let a1 ← lastAddress
  line 2
  select
  require 3 .readyTimeout waitIdle
  require 4 .cmdRejected (isAccepted (sendCommand 32#8 a0 0x00#8))
  require 5 .cmdRejected (isAccepted (sendCommand 33#8 a1 0x00#8))
  require 6 .cmdRejected (isAccepted (sendCommand 38#8 0x00000000#32 0x00#8))
  require 7 .eraseBusyTimeout waitEraseBusy
  line 8

/-- ERASE (R176): ILLEGAL on MMC, from the pre-check. -/
def execErase (s : State) : Host.Outcome State Fault Refusal := .next (start 0x8#4 bodyErase s)

end Sys2Proof.Machine
end

