-- ==== Sys2Proof/Machine/Wire.lean ====
section
/-! DEFINITION. The wire rows of the opcode table: the commands (30_encoding.md R73, R75), the response R1 (R77), the
tokens (R81) and the data responses (R82). Each is what the sequencer does at that one position of its sequence (R72). -/
namespace Sys2Proof.Machine

/-- A command alone: SendCommand with these operands (R102). -/
def sendAlone (idx : Byte) (arg : Word) (crc7 : BitVec 7) (s : State) : State :=
  alone (sendCommand idx arg (crcOperand crc7)) s

/-- CMD0 (R75): "go-idle", for INIT. -/
def execCmd0 (arg : Word) (crc7 : BitVec 7) (s : State) : Host.Outcome State Fault Refusal :=
  .next (sendAlone 0#8 arg crc7 s)

/-- CMD1 (R75): "op-condition command", the legacy MMC activation, for INIT. -/
def execCmd1 (arg : Word) (crc7 : BitVec 7) (s : State) : Host.Outcome State Fault Refusal :=
  .next (sendAlone 1#8 arg crc7 s)

/-- CMD8 (R75): "interface-condition command", for INIT; the four echo bytes are GetExtendedResponse's (R105). -/
def execCmd8 (arg : Word) (crc7 : BitVec 7) (s : State) : Host.Outcome State Fault Refusal :=
  .next (sendAlone 8#8 arg crc7 s)

/-- CMD9 (R75): read CSD, for INFO; its data block is DataReceive's (R200). -/
def execCmd9 (arg : Word) (crc7 : BitVec 7) (s : State) : Host.Outcome State Fault Refusal :=
  .next (sendAlone 9#8 arg crc7 s)

/-- CMD10 (R75): read CID, for INFO; its data block is DataReceive's (R200). -/
def execCmd10 (arg : Word) (crc7 : BitVec 7) (s : State) : Host.Outcome State Fault Refusal :=
  .next (sendAlone 10#8 arg crc7 s)

/-- CMD12 (R75): "stop-transmission command", for RDN: one stuff byte is discarded before the polls (R80, R103). -/
def execCmd12 (arg : Word) (crc7 : BitVec 7) (s : State) : Host.Outcome State Fault Refusal :=
  .next (sendAlone 12#8 arg crc7 s)

/-- ACMD13 (R75): read SD Status, for STAT, sent after CMD55 (R76). -/
def execAcmd13 (arg : Word) (crc7 : BitVec 7) (s : State) : Host.Outcome State Fault Refusal :=
  .next (sendAlone 13#8 arg crc7 s)

/-- CMD16 (R75): "set-block-length command", for INIT. -/
def execCmd16 (arg : Word) (crc7 : BitVec 7) (s : State) : Host.Outcome State Fault Refusal :=
  .next (sendAlone 16#8 arg crc7 s)

/-- CMD17 (R75): "read-single-block command", for RD1. -/
def execCmd17 (arg : Word) (crc7 : BitVec 7) (s : State) : Host.Outcome State Fault Refusal :=
  .next (sendAlone 17#8 arg crc7 s)

/-- CMD18 (R75): "multi-block-read command", for RDN. -/
def execCmd18 (arg : Word) (crc7 : BitVec 7) (s : State) : Host.Outcome State Fault Refusal :=
  .next (sendAlone 18#8 arg crc7 s)

/-- CMD23 (R75): "set-block-count command", for WRN, plain or after CMD55 (R76). -/
def execCmd23 (arg : Word) (crc7 : BitVec 7) (s : State) : Host.Outcome State Fault Refusal :=
  .next (sendAlone 23#8 arg crc7 s)

/-- CMD24 (R75): "write-single-block command", for WR1. -/
def execCmd24 (arg : Word) (crc7 : BitVec 7) (s : State) : Host.Outcome State Fault Refusal :=
  .next (sendAlone 24#8 arg crc7 s)

/-- CMD25 (R75): "write-multi-block command", for WRN. -/
def execCmd25 (arg : Word) (crc7 : BitVec 7) (s : State) : Host.Outcome State Fault Refusal :=
  .next (sendAlone 25#8 arg crc7 s)

/-- CMD32 (R75): "erase-start-address command", for ERASE. -/
def execCmd32 (arg : Word) (crc7 : BitVec 7) (s : State) : Host.Outcome State Fault Refusal :=
  .next (sendAlone 32#8 arg crc7 s)

/-- CMD33 (R75): "erase-end-address command", for ERASE. -/
def execCmd33 (arg : Word) (crc7 : BitVec 7) (s : State) : Host.Outcome State Fault Refusal :=
  .next (sendAlone 33#8 arg crc7 s)

/-- CMD38 (R75): "erase-trigger command", for ERASE. -/
def execCmd38 (arg : Word) (crc7 : BitVec 7) (s : State) : Host.Outcome State Fault Refusal :=
  .next (sendAlone 38#8 arg crc7 s)

/-- ACMD41 (R75): "activation command", for INIT, sent after CMD55 (R76). -/
def execAcmd41 (arg : Word) (crc7 : BitVec 7) (s : State) : Host.Outcome State Fault Refusal :=
  .next (sendAlone 41#8 arg crc7 s)

/-- ACMD51 (R75): read SCR, for INFO, sent after CMD55 (R76). -/
def execAcmd51 (arg : Word) (crc7 : BitVec 7) (s : State) : Host.Outcome State Fault Refusal :=
  .next (sendAlone 51#8 arg crc7 s)

/-- CMD55 (R75): "app-command prefix", for INIT, WRN, INFO and STAT (R76). -/
def execCmd55 (arg : Word) (crc7 : BitVec 7) (s : State) : Host.Outcome State Fault Refusal :=
  .next (sendAlone 55#8 arg crc7 s)

/-- CMD58 (R75): "query the operation-conditions register", for INIT; the four OCR bytes are GetExtendedResponse's (R105). -/
def execCmd58 (arg : Word) (crc7 : BitVec 7) (s : State) : Host.Outcome State Fault Refusal :=
  .next (sendAlone 58#8 arg crc7 s)

/-- The poll whose received byte is `r`: it ends the polling, and LAST_R1 holds it (R102). -/
def receiveR1 (r : Byte) : Blk Unit := do
  receive r
  takeR1 r

/-- R1 (R77): "one byte with bit 7 = 0", the response the polls look for. -/
def execR1 (status : BitVec 7) (s : State) : Host.Outcome State Fault Refusal :=
  .next (alone (receiveR1 (0#1 ++ status)) s)

/-- TOKEN_START_BLOCK (R81): WR1 sends it before its payload. That it is the one token a read accepts is DataReceive's test (R125). -/
def execTokenStartBlock (s : State) : Host.Outcome State Fault Refusal := .next (alone (xchg startToken) s)

/-- TOKEN_MULTI_WRITE (R81): WRN sends it before every sector's payload. -/
def execTokenMultiWrite (s : State) : Host.Outcome State Fault Refusal := .next (alone (xchg multiWriteToken) s)

/-- TOKEN_STOP_TRAN (R81): WRN sends it once after the sector loop. -/
def execTokenStopTran (s : State) : Host.Outcome State Fault Refusal := .next (alone (xchg stopToken) s)

/-- The exchange after a written block whose received byte is `d`: LAST_DRESP holds the masked value (R126). -/
def receiveDresp (d : Byte) : Blk Bool := do
  receive d
  takeDresp d

/-- DRESP_ACCEPTED (R82): masked value 0x04. -/
def execDrespAccepted (hi : BitVec 4) (lo : BitVec 1) (s : State) : Host.Outcome State Fault Refusal :=
  .next (alone (receiveDresp (drespByte hi 0b010#3 lo)) s)

/-- DRESP_CRC_REJECTED (R82): masked value 0x0A. -/
def execDrespCrcRejected (hi : BitVec 4) (lo : BitVec 1) (s : State) : Host.Outcome State Fault Refusal :=
  .next (alone (receiveDresp (drespByte hi 0b101#3 lo)) s)

/-- DRESP_WRITE_ERROR (R82): masked value 0x0C. -/
def execDrespWriteError (hi : BitVec 4) (lo : BitVec 1) (s : State) : Host.Outcome State Fault Refusal :=
  .next (alone (receiveDresp (drespByte hi 0b110#3 lo)) s)

end Sys2Proof.Machine
end

