-- ==== Sys2Proof/Machine/Dispatch.lean ====
section
/-! DEFINITION. One arm per constructor of Instr: the meaning of each row of the opcode table. -/
namespace Sys2Proof.Machine

def exec (i : Instr) (s : State) : Host.Outcome State Fault Refusal :=
  match i with
  | .detect => Sys2Proof.Machine.execDetect s
  | .init => Sys2Proof.Machine.execInit s
  | .deinit => Sys2Proof.Machine.execDeinit s
  | .rd1 => Sys2Proof.Machine.execRd1 s
  | .rdn => Sys2Proof.Machine.execRdn s
  | .wr1 => Sys2Proof.Machine.execWr1 s
  | .wrn => Sys2Proof.Machine.execWrn s
  | .erase => Sys2Proof.Machine.execErase s
  | .info => Sys2Proof.Machine.execInfo s
  | .stat => Sys2Proof.Machine.execStat s
  | .reserved0 => Sys2Proof.Machine.execReserved0 s
  | .reservedB => Sys2Proof.Machine.execReservedB s
  | .reservedC => Sys2Proof.Machine.execReservedC s
  | .reservedD => Sys2Proof.Machine.execReservedD s
  | .reservedE => Sys2Proof.Machine.execReservedE s
  | .reservedF => Sys2Proof.Machine.execReservedF s
  | .cmd0 arg crc7 => Sys2Proof.Machine.execCmd0 arg crc7 s
  | .cmd1 arg crc7 => Sys2Proof.Machine.execCmd1 arg crc7 s
  | .cmd8 arg crc7 => Sys2Proof.Machine.execCmd8 arg crc7 s
  | .cmd9 arg crc7 => Sys2Proof.Machine.execCmd9 arg crc7 s
  | .cmd10 arg crc7 => Sys2Proof.Machine.execCmd10 arg crc7 s
  | .cmd12 arg crc7 => Sys2Proof.Machine.execCmd12 arg crc7 s
  | .acmd13 arg crc7 => Sys2Proof.Machine.execAcmd13 arg crc7 s
  | .cmd16 arg crc7 => Sys2Proof.Machine.execCmd16 arg crc7 s
  | .cmd17 arg crc7 => Sys2Proof.Machine.execCmd17 arg crc7 s
  | .cmd18 arg crc7 => Sys2Proof.Machine.execCmd18 arg crc7 s
  | .cmd23 arg crc7 => Sys2Proof.Machine.execCmd23 arg crc7 s
  | .cmd24 arg crc7 => Sys2Proof.Machine.execCmd24 arg crc7 s
  | .cmd25 arg crc7 => Sys2Proof.Machine.execCmd25 arg crc7 s
  | .cmd32 arg crc7 => Sys2Proof.Machine.execCmd32 arg crc7 s
  | .cmd33 arg crc7 => Sys2Proof.Machine.execCmd33 arg crc7 s
  | .cmd38 arg crc7 => Sys2Proof.Machine.execCmd38 arg crc7 s
  | .acmd41 arg crc7 => Sys2Proof.Machine.execAcmd41 arg crc7 s
  | .acmd51 arg crc7 => Sys2Proof.Machine.execAcmd51 arg crc7 s
  | .cmd55 arg crc7 => Sys2Proof.Machine.execCmd55 arg crc7 s
  | .cmd58 arg crc7 => Sys2Proof.Machine.execCmd58 arg crc7 s
  | .r1 status => Sys2Proof.Machine.execR1 status s
  | .tokenStartBlock => Sys2Proof.Machine.execTokenStartBlock s
  | .tokenMultiWrite => Sys2Proof.Machine.execTokenMultiWrite s
  | .tokenStopTran => Sys2Proof.Machine.execTokenStopTran s
  | .drespAccepted hi lo => Sys2Proof.Machine.execDrespAccepted hi lo s
  | .drespCrcRejected hi lo => Sys2Proof.Machine.execDrespCrcRejected hi lo s
  | .drespWriteError hi lo => Sys2Proof.Machine.execDrespWriteError hi lo s

end Sys2Proof.Machine
end

