-- ==== Sys2Proof/Machine/Fetch.lean ====
section
/-! DEFINITION. What a step runs next: the block has no program counter and fetches nothing from a memory
(20_memory.md R67). Its instructions are the requester's CTRL writes (30_encoding.md R70, R91), and, at the model's own
control point `Seq.wire`, one wire format alone (log 9). -/
namespace Sys2Proof.Machine

/-- What one step of the machine is. -/
inductive Turn where
  /-- An instruction, and the state it runs on. -/
  | instr (f : Fetch) (s : State)
  /-- No instruction: the state after what arrived, or after nothing did. -/
  | quiet (s : State)
  /-- A requester access outside the interface (R29). -/
  | refused
  /-- The running operation is stuck and nothing arrives (D38). -/
  | stuck

/-- An input that is due. A CTRL write with START = 1 is a request (R21, R91); any other access of the interface
changes the state at once (R20 to R28); any other access is refused (R29). -/
def deliver (x : Input) (s : State) : Turn :=
  match x with
  | .reset => .quiet (resetBlock s)
  | .bufRead a => .quiet (requesterRead s a)
  | .bufWrite a v => .quiet (requesterWrite s a v)
  | .access acc =>
    if acc.inInterface = false then .refused
    else match acc.request? with
      | some w => .instr (.request w) s
      | none => .quiet (accessReg s acc)

/-- The inputs of a step: the next one if it is due, or one step nearer; with none the idle block waits for a start
(R250), and a stuck operation has no successor (D38). -/
def arrivals (s : State) : Turn :=
  match s.inbox with
  | [] => if s.busy then .stuck else .quiet s
  | a :: rest =>
    if a.wait ≠ 0 then .quiet { s with inbox := { a with wait := a.wait - 1 } :: rest }
    else deliver a.input { s with inbox := rest }

/-- The wire format the sequencer stands before, if it stands before one alone (log 9). -/
def Seq.fetch? : Seq → Option Fetch
  | .wire slot bytes => some (.wire slot bytes)
  | .idle | .body _ _ | .init _ _ _ | .epilogue _ _ => none

/-- What the next step is. -/
def turn (s : State) : Turn :=
  match s.seq.fetch? with
  | some f => .instr f { s with seq := .idle }
  | none => arrivals s

/-- The state whose next step fetches `f`: a request is the requester's next CTRL write, due at once; a wire format is
where the sequencer stands (log 9). -/
def placeFetch (s : State) (f : Fetch) : State :=
  match f with
  | .request w =>
    { s with
      seq := match s.seq.fetch? with
        | some _ => .idle
        | none => s.seq
      inbox := { wait := 0, input := .access { offset := 0x00, width := 32, write := some w } } :: s.inbox }
  | .wire slot bytes => { s with seq := .wire slot bytes }

end Sys2Proof.Machine
end

