-- ==== Sys2Proof/Machine/Step.lean ====
section
/-! DEFINITION. One step of the machine, and the state that makes the next step run a given word. -/
namespace Sys2Proof.Machine

/-- One step: the instruction that is due, decoded and executed; or what arrives from outside; or nothing, when the block
is idle and nothing arrives. -/
def step (s : State) : Host.Outcome State Fault Refusal :=
  match turn s with
  | .instr f s' =>
    match decode f with
    | .ok i => exec i s'
    | .error _ => .refused .undecodable
  | .quiet s' => .next s'
  | .refused => .refused .accessOutsideInterface
  | .stuck => .fault .stuckOnBuffer

/-- The state whose next step runs the word `w` of the opcode table (log 9, log 10). -/
def State.withFetchWord (s : State) (nbits w : Nat) : State := placeFetch s (tableFetch nbits w)

end Sys2Proof.Machine
end

