-- ==== Sys2Proof/Safety.lean ====
section
/-! DEFINITION. The terms claims are stated in: what a quiet run, an admitted buffer and a ready block are; what the card
answers on the paths the rules describe; what the trace says was sent; the worst cases of 70_reset_and_hazards.md R261; and
the invariant every step keeps. -/
namespace Sys2Proof

/-! ### The rows of the opcode table -/

/-- The requests of R70 and R71, with the operation code of each. -/
def Instr.opCode? : Instr → Option (BitVec 4)
  | .detect => some 0x1#4
  | .init => some 0x2#4
  | .deinit => some 0x3#4
  | .rd1 => some 0x4#4
  | .rdn => some 0x5#4
  | .wr1 => some 0x6#4
  | .wrn => some 0x7#4
  | .erase => some 0x8#4
  | .info => some 0x9#4
  | .stat => some 0xA#4
  | .reserved0 => some 0x0#4
  | .reservedB => some 0xB#4
  | .reservedC => some 0xC#4
  | .reservedD => some 0xD#4
  | .reservedE => some 0xE#4
  | .reservedF => some 0xF#4
  | .cmd0 _ _ | .cmd1 _ _ | .cmd8 _ _ | .cmd9 _ _ | .cmd10 _ _ | .cmd12 _ _ | .acmd13 _ _ => none
  | .cmd16 _ _ | .cmd17 _ _ | .cmd18 _ _ | .cmd23 _ _ | .cmd24 _ _ | .cmd25 _ _ | .cmd32 _ _ => none
  | .cmd33 _ _ | .cmd38 _ _ | .acmd41 _ _ | .acmd51 _ _ | .cmd55 _ _ | .cmd58 _ _ => none
  | .r1 _ | .tokenStartBlock | .tokenMultiWrite | .tokenStopTran => none
  | .drespAccepted _ _ | .drespCrcRejected _ _ | .drespWriteError _ _ => none

/-- The command rows of R75: index, argument and CRC field. -/
def Instr.command? : Instr → Option (Byte × Word × BitVec 7)
  | .cmd0 a c => some (0#8, a, c)
  | .cmd1 a c => some (1#8, a, c)
  | .cmd8 a c => some (8#8, a, c)
  | .cmd9 a c => some (9#8, a, c)
  | .cmd10 a c => some (10#8, a, c)
  | .cmd12 a c => some (12#8, a, c)
  | .acmd13 a c => some (13#8, a, c)
  | .cmd16 a c => some (16#8, a, c)
  | .cmd17 a c => some (17#8, a, c)
  | .cmd18 a c => some (18#8, a, c)
  | .cmd23 a c => some (23#8, a, c)
  | .cmd24 a c => some (24#8, a, c)
  | .cmd25 a c => some (25#8, a, c)
  | .cmd32 a c => some (32#8, a, c)
  | .cmd33 a c => some (33#8, a, c)
  | .cmd38 a c => some (38#8, a, c)
  | .acmd41 a c => some (41#8, a, c)
  | .acmd51 a c => some (51#8, a, c)
  | .cmd55 a c => some (55#8, a, c)
  | .cmd58 a c => some (58#8, a, c)
  | .detect | .init | .deinit | .rd1 | .rdn | .wr1 | .wrn | .erase | .info | .stat => none
  | .reserved0 | .reservedB | .reservedC | .reservedD | .reservedE | .reservedF => none
  | .r1 _ | .tokenStartBlock | .tokenMultiWrite | .tokenStopTran => none
  | .drespAccepted _ _ | .drespCrcRejected _ _ | .drespWriteError _ _ => none

end Sys2Proof

namespace Sys2Proof.Machine

/-! ### Conditions on the state -/

/-- Nothing arrives from outside: no requester access and no reset (R5, R251). -/
abbrev Quiet (s : State) : Prop := s.inbox = []

/-- The block is idle and its last successful INIT stands: R252 step 4's condition for the data operations. -/
abbrev Ready (s : State) : Prop := s.busy = false ∧ s.initOk = true

/-- The platform admits a block read at each of the `n` addresses from `src` (R55). -/
abbrev ReadsAdmitted (s : State) (src n : Nat) : Prop :=
  ∀ i, i < n → inRegions s.cfg.noRead (bufAddr s (src + i)) = false

/-- The platform admits a block write at each of the `n` addresses from `dest` (R55). -/
abbrev WritesAdmitted (s : State) (dest n : Nat) : Prop :=
  ∀ i, i < n → inRegions s.cfg.noWrite (bufAddr s (dest + i)) = false

/-- The platform admits every block access (R55). -/
abbrev AllAdmitted (s : State) : Prop := s.cfg.noRead = [] ∧ s.cfg.noWrite = []

/-! ### The trace -/

/-- `evs`, oldest first, are the events from `s` to `t` (R5, R234). -/
abbrev Emits (s t : State) (evs : List Event) : Prop := t.trace = evs.reverse ++ s.trace

/-- The exchanges that send `outs` and receive `ins`, in order. -/
def xchgEvents (outs ins : List Byte) : List Event := List.zipWith .xchg outs ins

/-- `s` after exchanges that send `outs` and receive the bytes `ins`, the next of the card's stream. -/
def heard (s : State) (outs ins : List Byte) : State :=
  { s with
    card := s.card.drop ins.length, trace := (xchgEvents outs ins).reverse ++ s.trace, xchgs := s.xchgs + ins.length }

/-- `s` with the hidden try counter at `n` (R39). -/
def withTries (s : State) (n : Nat) : State := { s with tries := n }

/-- `s` after a command whose reply is `l`, ending in the response `r`: the frame and then fillers went out, LAST_R1
holds `r`, and the try counter what is left of the bound (R102, R103, R108). -/
def answered (s : State) (idx : Byte) (arg : Word) (crc : Byte) (r : Byte) (l : List Byte) : State :=
  { heard s (frame idx arg crc ++ List.replicate (l.length - 6) filler) l with
    lastR1 := r, tries := s.cfg.cmdRespTries - (l.length - (if idx = 12#8 then 7 else 6)) }

/-- `s` after a wait with this bound that read the bytes `l` (R120). -/
def polled (s : State) (bound : Nat) (l : List Byte) : State :=
  withTries (heard s (List.replicate l.length filler) l) (bound - l.length)

/-- The events of a received payload, oldest first: each byte goes to buffer memory right after its exchange (R54, R125);
`w` is the width of buffer addresses. -/
def receiveEvents (w dest : Nat) : List Byte → List Event
  | [] => []
  | b :: bs => .xchg filler b :: .memWrite (wrap w dest) b :: receiveEvents w (dest + 1) bs

/-- The events of a sent payload, oldest first: each byte is read from buffer memory right before its exchange; the
second list is what the card sends meanwhile (R54, R127). -/
def sendEvents (w src : Nat) : List Byte → List Byte → List Event
  | b :: bs, i :: is => .memRead (wrap w src) b :: .xchg b i :: sendEvents w (src + 1) bs is
  | [], _ | _ :: _, [] => []

/-- How many exchanges. -/
def exchangeCount : List Event → Nat
  | [] => 0
  | .xchg _ _ :: evs => exchangeCount evs + 1
  | .select :: evs | .deselect :: evs | .memRead _ _ :: evs | .memWrite _ _ :: evs => exchangeCount evs

/-- The chip-select events, in order: true for a select. -/
def selects : List Event → List Bool
  | [] => []
  | .select :: evs => true :: selects evs
  | .deselect :: evs => false :: selects evs
  | .xchg _ _ :: evs | .memRead _ _ :: evs | .memWrite _ _ :: evs => selects evs

/-! ### Buffer contents -/

/-- The memory after `bytes` are stored one by one from `dest` on, each address wrapped to `w` bits (R51, R54). -/
def storeBytes (w dest : Nat) : List Byte → List Host.Cell → List Host.Cell
  | [], m => m
  | b :: bs, m => storeBytes w (dest + 1) bs (memPut m (wrap w dest) b)

/-- The `n` bytes of a memory from `src` on, each address wrapped to `w` bits (R51, R54). -/
def loadBytes (w : Nat) (m : List Host.Cell) (src : Nat) : Nat → List Byte
  | 0 => []
  | n + 1 => memGet m (wrap w src) :: loadBytes w m (src + 1) n

/-- The address is one of the `n` addresses from `dest` on, each wrapped to `w` bits (R51, R52). -/
def InBuffer (w dest n a : Nat) : Prop := ∃ i, i < n ∧ a = wrap w (dest + i)

/-! ### What the card answers -/

/-- The card's bytes during a command that SendCommand answers with `r`: 6 frame bytes (and the stuff byte of CMD12), polls
without a response, then `r`: a response on a poll the bound allows, or the last byte of exhausted polls (R102 to R104). -/
def CommandReply (s : State) (idx : Byte) (r : Byte) (l : List Byte) : Prop :=
  ∃ junk polls : List Byte,
    junk.length = (if idx = 12#8 then 7 else 6) ∧ polls.length < s.cfg.cmdRespTries ∧
    (∀ b ∈ polls, responsePresent b = false) ∧ (responsePresent r = true ∨ polls.length + 1 = s.cfg.cmdRespTries) ∧
    l = junk ++ polls ++ [r]

/-- The replies to consecutive commands, each accepted with 0x00 (R171). -/
def CommandReplies (s : State) : List (Byte × Word) → List (List Byte) → Prop
  | [], ls => ls = []
  | _ :: _, [] => False
  | c :: cs, l :: ls => CommandReply s c.1 0x00#8 l ∧ CommandReplies s cs ls

/-- The card's bytes during a wait that succeeds on byte `b`: bytes that fail the test, then `b`, on a read the bound
allows (R120). -/
def WaitReply (p : Byte → Bool) (bound : Nat) (b : Byte) (l : List Byte) : Prop :=
  ∃ busy : List Byte, busy.length < bound ∧ (∀ x ∈ busy, p x = false) ∧ p b = true ∧ l = busy ++ [b]

/-- The card's bytes during a wait-ready that succeeds (R121). -/
abbrev IdleReply (s : State) (l : List Byte) : Prop := WaitReply busIdle s.cfg.idleWaitTries 0xFF#8 l

/-- The card's bytes during a wait for a token that brings `tok` (R122). -/
abbrev TokenReply (s : State) (tok : Byte) (l : List Byte) : Prop := WaitReply tokenArrived s.cfg.tokenWaitTries tok l

/-- The card's bytes while it answers a block it accepted: the wait for the end of its writing (R123). -/
abbrev WrittenReply (s : State) (l : List Byte) : Prop := WaitReply busIdle s.cfg.writeBusyTries 0xFF#8 l

/-- The card's bytes during a wait for the idle byte that fails: as many reads as the bound, none of them 0xFF (R120). -/
def WaitExhausted (bound : Nat) (l : List Byte) : Prop := l.length = bound ∧ ∀ x ∈ l, x ≠ 0xFF#8

/-- The card's bytes during a wait for a token that brings no 0xFE: another token, or 0xFF on every read the bound allows
(R122, R125). -/
def NoStartToken (s : State) (l : List Byte) : Prop :=
  (∃ tok, tok ≠ 0xFE#8 ∧ TokenReply s tok l) ∨ (l.length = s.cfg.tokenWaitTries ∧ ∀ x ∈ l, x = 0xFF#8)

/-- A block the card sends: the bytes up to its token, the payload, two CRC bytes (R84, R125). -/
structure BlockIn where
  wait : List Byte
  payload : List Byte
  crc : List Byte
deriving DecidableEq, Repr

/-- The card's bytes of a block it sends. -/
def BlockIn.bytes (b : BlockIn) : List Byte := b.wait ++ b.payload ++ b.crc

/-- The block is one DataReceive accepts, with `n` payload bytes (R125). -/
def BlockIn.Good (s : State) (n : Nat) (b : BlockIn) : Prop :=
  TokenReply s startToken b.wait ∧ b.payload.length = n ∧ b.crc.length = 2

/-- What the card sends while it receives a block: against the token, the payload and the CRC fillers; the data response;
then until its writing ends (R127, R123). -/
structure BlockOut where
  token : Byte
  payload : List Byte
  crc : List Byte
  dresp : Byte
  busy : List Byte
deriving DecidableEq, Repr

/-- The card's bytes of a block it receives. -/
def BlockOut.bytes (b : BlockOut) : List Byte := [b.token] ++ b.payload ++ b.crc ++ [b.dresp] ++ b.busy

/-- The card accepts the block, and its writing ends within the bound (R82, R123). -/
def BlockOut.Good (s : State) (b : BlockOut) : Prop :=
  b.payload.length = 512 ∧ b.crc.length = 2 ∧ drespAccepted (drespMask b.dresp) = true ∧ WrittenReply s b.busy

/-! ### What an operation's parts send, as events -/

/-- Fillers exchanged for these bytes (R85). -/
def pollEvents (l : List Byte) : List Event := xchgEvents (List.replicate l.length filler) l

/-- A command whose reply is `l` (R73, R102). -/
def commandEvents (idx : Byte) (arg : Word) (crc : Byte) (l : List Byte) : List Event :=
  xchgEvents (frame idx arg crc ++ List.replicate (l.length - 6) filler) l

/-- Consecutive commands whose CRC operand is 0x00 (R75). -/
def commandsEvents : List (Byte × Word) → List (List Byte) → List Event
  | c :: cs, l :: ls => commandEvents c.1 c.2 0x00#8 l ++ commandsEvents cs ls
  | [], _ | _ :: _, [] => []

/-- A block received to `dest` (R54, R125). -/
def BlockIn.events (w dest : Nat) (b : BlockIn) : List Event :=
  pollEvents b.wait ++ receiveEvents w dest b.payload ++ xchgEvents [filler, filler] b.crc

/-- Consecutive sectors received from `dest` on (R52, R173). -/
def sectorsInEvents (w dest : Nat) : List BlockIn → List Event
  | [] => []
  | b :: bs => b.events w dest ++ sectorsInEvents w (dest + 512) bs

/-- Memory after consecutive sectors are stored from `dest` on (R52). -/
def sectorsStored (w dest : Nat) : List BlockIn → List Host.Cell → List Host.Cell
  | [], m => m
  | b :: bs, m => sectorsStored w (dest + 512) bs (storeBytes w dest b.payload m)

/-- A block sent from `src` in memory `m`, after this token (R54, R127), and the wait after it. -/
def BlockOut.events (w : Nat) (m : List Host.Cell) (token : Byte) (src : Nat) (b : BlockOut) : List Event :=
  [.xchg token b.token] ++ sendEvents w src (loadBytes w m src 512) b.payload ++
    xchgEvents [filler, filler] b.crc ++ [.xchg filler b.dresp] ++ pollEvents b.busy

/-- Consecutive sectors sent from `src` on (R52, R175). -/
def sectorsOutEvents (w : Nat) (m : List Host.Cell) (src : Nat) : List BlockOut → List Event
  | [] => []
  | b :: bs => b.events w m multiWriteToken src ++ sectorsOutEvents w m (src + 512) bs

/-- Select (R100). -/
def selectEvents : List Event := [.select]

/-- Release, whose trailing byte the card answers with `trail` (R101). -/
def releaseEvents (trail : Byte) : List Event := [.deselect, .xchg filler trail]

/-! ### The commands an operation sends -/

/-- The commands by which WRN announces its count: none for MMC; else CMD23, after CMD55 where the parameter says so (R175). -/
def announceCommands (s : State) : List (Byte × Word) :=
  if s.family = .mmc then []
  else if s.cfg.setBlkCntAppPrefix = true then [(55#8, 0x00000000#32), (23#8, s.arg1)]
  else [(23#8, s.arg1)]

/-- The first command of a data operation started now (R172 to R176, R200, R203). -/
def firstCommand (s : State) : Instr → Option (Byte × Word)
  | .rd1 => some (17#8, adjust s.family s.arg0)
  | .rdn => some (18#8, adjust s.family s.arg0)
  | .wr1 => some (24#8, adjust s.family s.arg0)
  | .wrn => some ((announceCommands s).headD (25#8, adjust s.family s.arg0))
  | .erase => some (32#8, adjust s.family s.arg0)
  | .info => some (9#8, 0x00000000#32)
  | .stat => some (55#8, 0x00000000#32)
  | .detect | .init | .deinit => none
  | .reserved0 | .reservedB | .reservedC | .reservedD | .reservedE | .reservedF => none
  | .cmd0 _ _ | .cmd1 _ _ | .cmd8 _ _ | .cmd9 _ _ | .cmd10 _ _ | .cmd12 _ _ | .acmd13 _ _ => none
  | .cmd16 _ _ | .cmd17 _ _ | .cmd18 _ _ | .cmd23 _ _ | .cmd24 _ _ | .cmd25 _ _ | .cmd32 _ _ => none
  | .cmd33 _ _ | .cmd38 _ _ | .acmd41 _ _ | .acmd51 _ _ | .cmd55 _ _ | .cmd58 _ _ => none
  | .r1 _ | .tokenStartBlock | .tokenMultiWrite | .tokenStopTran => none
  | .drespAccepted _ _ | .drespCrcRejected _ _ | .drespWriteError _ _ => none

/-- How many bytes from BUFBASE on an operation started now may store to (R52, R53). -/
def storeLength (s : State) : Instr → Nat
  | .rd1 => 512
  | .rdn => 512 * s.arg1.toNat
  | .info => if s.family = .mmc then 32 else 40
  | .stat => 64
  | .detect | .init | .deinit | .wr1 | .wrn | .erase => 0
  | .reserved0 | .reservedB | .reservedC | .reservedD | .reservedE | .reservedF => 0
  | .cmd0 _ _ | .cmd1 _ _ | .cmd8 _ _ | .cmd9 _ _ | .cmd10 _ _ | .cmd12 _ _ | .acmd13 _ _ => 0
  | .cmd16 _ _ | .cmd17 _ _ | .cmd18 _ _ | .cmd23 _ _ | .cmd24 _ _ | .cmd25 _ _ | .cmd32 _ _ => 0
  | .cmd33 _ _ | .cmd38 _ _ | .acmd41 _ _ | .acmd51 _ _ | .cmd55 _ _ | .cmd58 _ _ => 0
  | .r1 _ | .tokenStartBlock | .tokenMultiWrite | .tokenStopTran => 0
  | .drespAccepted _ _ | .drespCrcRejected _ _ | .drespWriteError _ _ => 0

/-! ### A run as parts -/

/-- One stretch of what a body exchanges, with what the card answers in it. -/
inductive Part where
  /-- Fillers: a gap or a wait (R85, R120). -/
  | polls (l : List Byte)
  /-- A command and its reply (R102). -/
  | command (idx : Byte) (arg : Word) (crc : Byte) (l : List Byte)
  /-- The four bytes of GetExtendedResponse (R105). -/
  | ext (e : Vector Byte 4)
  /-- A block received to `L_BUF + off` (R125). -/
  | blockIn (off : Nat) (b : BlockIn)
  /-- A block sent from `L_BUF + off` after this token, and the wait after it, if one follows (R127). -/
  | blockOut (token : Byte) (off : Nat) (b : BlockOut)
  /-- A block received to `L_BUF + off` up to the byte `b` that cannot be stored (R55). -/
  | stuckIn (off : Nat) (wait stored : List Byte) (b : Byte)
  /-- A block sent from `L_BUF + off` up to the byte that cannot be read; the card answers `a` and `ins` meanwhile (R55). -/
  | stuckOut (token : Byte) (off : Nat) (a : Byte) (ins : List Byte)
deriving DecidableEq, Repr

/-- The card's bytes. -/
def Part.bytes : Part → List Byte
  | .polls l => l
  | .command _ _ _ l => l
  | .ext e => e.toList
  | .blockIn _ b => b.bytes
  | .blockOut _ _ b => b.bytes
  | .stuckIn _ wait stored b => wait ++ stored ++ [b]
  | .stuckOut _ _ a ins => a :: ins

/-- The events; `w` is the width of buffer addresses, `buf` is L_BUF, `m` buffer memory. -/
def Part.events (w buf : Nat) (m : List Host.Cell) : Part → List Event
  | .polls l => pollEvents l
  | .command idx arg crc l => commandEvents idx arg crc l
  | .ext e => pollEvents e.toList
  | .blockIn off b => b.events w (buf + off)
  | .blockOut token off b => b.events w m token (buf + off)
  | .stuckIn off wait stored b => pollEvents wait ++ receiveEvents w (buf + off) stored ++ [.xchg filler b]
  | .stuckOut token off a ins => .xchg token a :: sendEvents w (buf + off) (loadBytes w m (buf + off) ins.length) ins

/-- Buffer memory after it. -/
def Part.store (w buf : Nat) (m : List Host.Cell) : Part → List Host.Cell
  | .blockIn off b => storeBytes w (buf + off) b.payload m
  | .stuckIn off _ stored _ => storeBytes w (buf + off) stored m
  | .polls _ | .command _ _ _ _ | .ext _ | .blockOut _ _ _ | .stuckOut _ _ _ _ => m

/-- LAST_R1 after it: a command's response is the last byte of its reply (R36, R102). -/
def Part.lastR1 (r : Byte) : Part → Byte
  | .command _ _ _ l => l.getLastD r
  | .polls _ | .ext _ | .blockIn _ _ | .blockOut _ _ _ | .stuckIn _ _ _ _ | .stuckOut _ _ _ _ => r

/-- EXT after it: the four bytes of the latest GetExtendedResponse, in arrival order (R37, R105). -/
def Part.lastExt (e : Vector Byte 4) : Part → Vector Byte 4
  | .ext e' => e'
  | .polls _ | .command _ _ _ _ | .blockIn _ _ | .blockOut _ _ _ | .stuckIn _ _ _ _ | .stuckOut _ _ _ _ => e

/-- LAST_DRESP after it: the masked data response of a sent block (R38, R126). -/
def Part.lastDresp (d : Byte) : Part → Byte
  | .blockOut _ _ b => b.dresp &&& 0x0E#8
  | .polls _ | .command _ _ _ _ | .ext _ | .blockIn _ _ | .stuckIn _ _ _ _ | .stuckOut _ _ _ _ => d

/-- The card's bytes of consecutive parts. -/
def partsBytes (ps : List Part) : List Byte := ps.flatMap Part.bytes

/-- The events of consecutive parts of an operation started in `s`, whose BUFBASE it latches. -/
def partsEvents (s : State) (ps : List Part) : List Event :=
  ps.flatMap (Part.events s.cfg.bufAddrWidth s.bufbase.toNat s.mem)

/-- Buffer memory after consecutive parts. -/
def partsStore (s : State) (ps : List Part) : List Host.Cell :=
  ps.foldl (Part.store s.cfg.bufAddrWidth s.bufbase.toNat) s.mem

/-! ### The data operations, phase by phase -/

/-- One phase of a data operation's body, which passes or fails (R170). -/
inductive Phase where
  | ready
  | command (idx : Byte) (arg : Word)
  | gap (n : Nat)
  | receive (len off : Nat)
  | send (token : Byte) (off : Nat)
  | busy (bound : Nat)
deriving DecidableEq, Repr

/-- The phase passes in this part (R82, R85, R121, R123 to R127, R171). -/
def Phase.Passes (s : State) (p : Part) : Phase → Prop
  | .ready => ∃ l, p = .polls l ∧ IdleReply s l
  | .command idx arg => ∃ l, p = .command idx arg 0x00#8 l ∧ CommandReply s idx 0x00#8 l
  | .gap n => ∃ l, p = .polls l ∧ l.length = n
  | .receive len off => ∃ b : BlockIn, p = .blockIn off b ∧ b.Good s len
  | .send token off => ∃ b : BlockOut, p = .blockOut token off b ∧ b.payload.length = 512 ∧ b.crc.length = 2 ∧ b.busy = [] ∧
      b.dresp &&& 0x0E#8 = 0x04#8
  | .busy bound => ∃ l, p = .polls l ∧ WaitReply busIdle bound 0xFF#8 l

/-- The phase fails in this part; a gap cannot (R82, R104, R120, R122, R125, R126, R171). -/
def Phase.Fails (s : State) (p : Part) : Phase → Prop
  | .ready => ∃ l, p = .polls l ∧ WaitExhausted s.cfg.idleWaitTries l
  | .command idx arg => ∃ l r, p = .command idx arg 0x00#8 l ∧ CommandReply s idx r l ∧ r ≠ 0x00#8
  | .gap _ => False
  | .receive _ _ => ∃ l, p = .polls l ∧ NoStartToken s l
  | .send token off => ∃ b : BlockOut, p = .blockOut token off b ∧ b.payload.length = 512 ∧ b.crc.length = 2 ∧ b.busy = [] ∧
      b.dresp &&& 0x0E#8 ≠ 0x04#8 ∧ ReadsAdmitted s (s.bufbase.toNat + off) 512
  | .busy bound => ∃ l, p = .polls l ∧ WaitExhausted bound l

/-- The phase stops at a buffer access the platform does not admit, every access before it being admitted (R54, R55). -/
def Phase.Sticks (s : State) (p : Part) : Phase → Prop
  | .receive len off => ∃ wait stored b, p = .stuckIn off wait stored b ∧ TokenReply s 0xFE#8 wait ∧ stored.length < len ∧
      WritesAdmitted s (s.bufbase.toNat + off) stored.length ∧
      inRegions s.cfg.noWrite (bufAddr s (s.bufbase.toNat + off + stored.length)) = true
  | .send token off => ∃ a ins, p = .stuckOut token off a ins ∧ ins.length < 512 ∧
      ReadsAdmitted s (s.bufbase.toNat + off) ins.length ∧
      inRegions s.cfg.noRead (bufAddr s (s.bufbase.toNat + off + ins.length)) = true
  | .ready | .command _ _ | .gap _ | .busy _ => False

/-- The platform admits every buffer access of the phase (R55). -/
def Phase.Admitted (s : State) : Phase → Prop
  | .receive len off => WritesAdmitted s (s.bufbase.toNat + off) len
  | .send _ off => ReadsAdmitted s (s.bufbase.toNat + off) 512
  | .ready | .command _ _ | .gap _ | .busy _ => True

/-- The phases of a data operation started now whose failure ends its body: all of them, but for RDN and WRN those before the
transfer opens (R171 to R176, R200, R203). -/
def phases (s : State) : Instr → List Phase
  | .rd1 => [.ready, .command 17#8 (adjust s.family s.arg0), .receive 512 0]
  | .rdn => [.ready, .command 18#8 (adjust s.family s.arg0)]
  | .wr1 => [.ready, .command 24#8 (adjust s.family s.arg0), .gap s.cfg.writeGapBytes, .send 0xFE#8 0, .busy s.cfg.writeBusyTries]
  | .wrn => [.ready] ++ (announceCommands s ++ [(25#8, adjust s.family s.arg0)]).map fun c => .command c.1 c.2
  | .erase => [.ready, .command 32#8 (adjust s.family s.arg0), .command 33#8 (adjust s.family s.arg1),
      .command 38#8 0x00000000#32, .busy s.cfg.eraseBusyTries]
  | .info => [.ready, .command 9#8 0x00000000#32, .receive 16 0, .ready, .command 10#8 0x00000000#32, .receive 16 16] ++
      if s.family = .mmc then [] else [.ready, .command 55#8 0x00000000#32, .command 51#8 0x00000000#32, .receive 8 32]
  | .stat => [.ready, .command 55#8 0x00000000#32, .command 13#8 0x00000000#32, .gap 1, .receive 64 0]
  | .detect | .init | .deinit => []
  | .reserved0 | .reservedB | .reservedC | .reservedD | .reservedE | .reservedF => []
  | .cmd0 _ _ | .cmd1 _ _ | .cmd8 _ _ | .cmd9 _ _ | .cmd10 _ _ | .cmd12 _ _ | .acmd13 _ _ => []
  | .cmd16 _ _ | .cmd17 _ _ | .cmd18 _ _ | .cmd23 _ _ | .cmd24 _ _ | .cmd25 _ _ | .cmd32 _ _ => []
  | .cmd33 _ _ | .cmd38 _ _ | .acmd41 _ _ | .acmd51 _ _ | .cmd55 _ _ | .cmd58 _ _ => []
  | .r1 _ | .tokenStartBlock | .tokenMultiWrite | .tokenStopTran => []
  | .drespAccepted _ _ | .drespCrcRejected _ _ | .drespWriteError _ _ => []

/-- The phases of RDN's loop, and of WRN's gap and loop, one sector after the other (R52, R173, R175). -/
def loopPhases (s : State) : Instr → List Phase
  | .rdn => (List.range s.arg1.toNat).map fun k => .receive 512 (512 * k)
  | .wrn => .gap s.cfg.writeGapBytes ::
      (List.range s.arg1.toNat).flatMap fun k => [.send 0xFC#8 (512 * k), .busy s.cfg.writeBusyTries]
  | .rd1 | .wr1 | .erase | .info | .stat | .detect | .init | .deinit => []
  | .reserved0 | .reservedB | .reservedC | .reservedD | .reservedE | .reservedF => []
  | .cmd0 _ _ | .cmd1 _ _ | .cmd8 _ _ | .cmd9 _ _ | .cmd10 _ _ | .cmd12 _ _ | .acmd13 _ _ => []
  | .cmd16 _ _ | .cmd17 _ _ | .cmd18 _ _ | .cmd23 _ _ | .cmd24 _ _ | .cmd25 _ _ | .cmd32 _ _ => []
  | .cmd33 _ _ | .cmd38 _ _ | .acmd41 _ _ | .acmd51 _ _ | .cmd55 _ _ | .cmd58 _ _ => []
  | .r1 _ | .tokenStartBlock | .tokenMultiWrite | .tokenStopTran => []
  | .drespAccepted _ _ | .drespCrcRejected _ _ | .drespWriteError _ _ => []

/-- How an open WRN of `n` sectors fails after `k` accepted ones, the cause it keeps, and its closing wait: the next block is
rejected, or its writing does not end; or every block was accepted and the closing wait fails (R82, R123, R126, R175). -/
def WrnFails (s : State) (k n : Nat) (last : List BlockOut) (c : Cause) (w : List Byte) : Prop :=
  (∃ b : BlockOut, last = [b] ∧ k < n ∧ b.payload.length = 512 ∧ b.crc.length = 2 ∧
    (c = .dataRejected ∧ b.dresp &&& 0x0E#8 ≠ 0x04#8 ∧ b.busy = [] ∨
      c = .writeBusyTimeout ∧ b.dresp &&& 0x0E#8 = 0x04#8 ∧ WaitExhausted s.cfg.writeBusyTries b.busy) ∧
    (IdleReply s w ∨ WaitExhausted s.cfg.idleWaitTries w)) ∨
  (last = [] ∧ k = n ∧ c = .readyTimeout ∧ WaitExhausted s.cfg.idleWaitTries w)

/-- RDN fails after `k` sectors of `n`, the cause it keeps: the next block's token does not come, or every sector came and the
stop command is answered by another byte than 0x00 (R173). -/
def RdnFails (s : State) (k n : Nat) (t : List Byte) (r12 : Byte) (c : Cause) : Prop :=
  (c = .tokenFail ∧ k < n ∧ NoStartToken s t) ∨ (c = .stopRejected ∧ k = n ∧ t = [] ∧ r12 ≠ 0x00#8)

/-! ### A successful INIT -/

/-- Each of `ls` is the card's reply to this command, with a response that meets `P`. -/
def Replies (s : State) (idx : Byte) (P : Byte → Prop) (ls : List (List Byte)) : Prop :=
  ∀ l ∈ ls, ∃ r, P r ∧ CommandReply s idx r l

/-- SpiIdle: fewer than GO_IDLE_TRIES responses to CMD0 that are not 0x01, and then 0x01 (R142). -/
def IdlePhase (s : State) (ps : List Part) : Prop :=
  ∃ (bad : List (List Byte)) (l : List Byte), bad.length < s.cfg.goIdleTries ∧ Replies s 0#8 (· ≠ 0x01#8) bad ∧
    CommandReply s 0#8 0x01#8 l ∧ ps = (bad ++ [l]).map (.command 0#8 0x00000000#32 0x95#8)

/-- An attempt of VoltageCheck: CMD8 and its echo. -/
def echoParts (x : List Byte × Vector Byte 4) : List Part := [.command 8#8 0x000001AA#32 0x87#8 x.1, .ext x.2]

/-- CMD8 is not rejected as illegal, and its echo has this check pattern or not (R142). -/
def EchoAttempt (s : State) (x : List Byte × Vector Byte 4) : Prop :=
  ∃ r, r.getLsbD 2 = false ∧ CommandReply s 8#8 r x.1

/-- VoltageCheck: fewer than VCHECK_TRIES attempts whose echo is wrong, and then the candidate: SDSC_V1 when CMD8 is rejected as
illegal, SDSC_V2 when its check pattern comes back (R142). -/
def VoltagePhase (s : State) (cand : Family) (ps : List Part) : Prop :=
  ∃ bad : List (List Byte × Vector Byte 4), bad.length < s.cfg.vcheckTries ∧
    (∀ x ∈ bad, EchoAttempt s x ∧ (x.2[2], x.2[3]) ≠ (0x01#8, 0xAA#8)) ∧
    ((cand = .sdscV1 ∧ ∃ l r, r.getLsbD 2 = true ∧ CommandReply s 8#8 r l ∧
        ps = bad.flatMap echoParts ++ [.command 8#8 0x000001AA#32 0x87#8 l]) ∨
      (cand = .sdscV2 ∧ ∃ x, EchoAttempt s x ∧ (x.2[2], x.2[3]) = (0x01#8, 0xAA#8) ∧
        ps = (bad ++ [x]).flatMap echoParts))

/-- An iteration of the activation loop: CMD55 and ACMD41. -/
def activateParts (cand : Family) (x : List Byte × List Byte) : List Part :=
  [.command 55#8 0x00000000#32 0x00#8 x.1,
    .command 41#8 (if cand = .sdscV2 then 0x40000000#32 else 0x00000000#32) 0x00#8 x.2]

/-- CMD55 is not rejected as illegal, and the idle bit of ACMD41's response is this (R142). -/
def ActivateAttempt (s : State) (idle : Bool) (x : List Byte × List Byte) : Prop :=
  (∃ r, r.getLsbD 2 = false ∧ CommandReply s 55#8 r x.1) ∧ ∃ r, r.getLsbD 0 = idle ∧ CommandReply s 41#8 r x.2

/-- AppCmdProbe, Activating and FamilyResolved, for a candidate and the family it becomes (R142, R144): fewer than ACTIVATE_TRIES
iterations that leave the card idle, and then one that ends the loop. A rejected CMD55 makes it an MMC, which takes fewer than
ACTIVATE_TRIES CMD1 responses with the idle bit set and then one without; bit 30 of the OCR tells SDHC from SDSC_V2. -/
def ResolvePhase (s : State) (cand f : Family) (ps : List Part) : Prop :=
  ∃ idle : List (List Byte × List Byte), idle.length < s.cfg.activateTries ∧ (∀ x ∈ idle, ActivateAttempt s true x) ∧
    match f with
    | .mmc => ∃ (l r : _) (idle1 : List (List Byte)) (l1 : List Byte), r.getLsbD 2 = true ∧ CommandReply s 55#8 r l ∧
        idle1.length < s.cfg.activateTries ∧ Replies s 1#8 (·.getLsbD 0 = true) idle1 ∧
        Replies s 1#8 (·.getLsbD 0 = false) [l1] ∧
        ps = idle.flatMap (activateParts cand) ++ [.command 55#8 0x00000000#32 0x00#8 l] ++
          (idle1 ++ [l1]).map (.command 1#8 0x00000000#32 0x00#8)
    | .sdscV1 => cand = .sdscV1 ∧ ∃ x, ActivateAttempt s false x ∧ ps = (idle ++ [x]).flatMap (activateParts cand)
    | .sdscV2 => cand = .sdscV2 ∧ ∃ x l r ocr, ActivateAttempt s false x ∧ CommandReply s 58#8 r l ∧
        (ocr : Vector Byte 4)[0].getLsbD 6 = false ∧
        ps = (idle ++ [x]).flatMap (activateParts cand) ++ [.command 58#8 0x00000000#32 0x00#8 l, .ext ocr]
    | .sdhc => cand = .sdscV2 ∧ ∃ x l r ocr, ActivateAttempt s false x ∧ CommandReply s 58#8 r l ∧
        (ocr : Vector Byte 4)[0].getLsbD 6 = true ∧
        ps = (idle ++ [x]).flatMap (activateParts cand) ++ [.command 58#8 0x00000000#32 0x00#8 l, .ext ocr]
    | .none => False

/-- BlockLenFixed: CMD16 with 512, accepted, unless the card is an SDHC (R142). -/
def BlockLenPhase (s : State) (f : Family) (ps : List Part) : Prop :=
  if f = .sdhc then ps = []
  else ∃ l, CommandReply s 16#8 0x00#8 l ∧ ps = [.command 16#8 0x00000200#32 0x00#8 l]

/-- EXT32 after consecutive parts: the assembled bytes of the latest GetExtendedResponse (R37, R105). -/
def partsExt32 (s : State) (ps : List Part) : Word :=
  ps.foldl (fun v p => match p with
    | .ext e => e[0] ++ e[1] ++ e[2] ++ e[3]
    | .polls _ | .command _ _ _ _ | .blockIn _ _ | .blockOut _ _ _ | .stuckIn _ _ _ _ | .stuckOut _ _ _ _ => v) s.ext32

/-! ### A failing INIT -/

/-- How INIT fails: the cause, the family it assigned last, and the parts from its select to the failure (R142, R221). Each bounded
loop fails after exactly as many attempts as its bound; the phases before it pass. -/
def InitFails (s : State) (f : Family) (ps : List Part) : Cause → Prop
  | .idleTimeout => f = .none ∧ ∃ bad : List (List Byte), bad.length = s.cfg.goIdleTries ∧ Replies s 0#8 (· ≠ 0x01#8) bad ∧
      ps = bad.map (.command 0#8 0x00000000#32 0x95#8)
  | .vcheckMismatch => f = .none ∧ ∃ (p0 : List Part) (bad : List (List Byte × Vector Byte 4)), IdlePhase s p0 ∧
      bad.length = s.cfg.vcheckTries ∧ (∀ x ∈ bad, EchoAttempt s x ∧ (x.2[2], x.2[3]) ≠ (0x01#8, 0xAA#8)) ∧
      ps = p0 ++ bad.flatMap echoParts
  | .activateTimeout => ∃ (p0 p8 : List Part) (idle : List (List Byte × List Byte)), IdlePhase s p0 ∧ VoltagePhase s f p8 ∧
      idle.length = s.cfg.activateTries ∧ (∀ x ∈ idle, ActivateAttempt s true x) ∧
      ps = p0 ++ p8 ++ idle.flatMap (activateParts f)
  | .mmcActivateTimeout => f = .mmc ∧ ∃ (cand : Family) (p0 p8 : List Part) (idle : List (List Byte × List Byte)) (l : List Byte)
      (r : Byte) (idle1 : List (List Byte)), IdlePhase s p0 ∧ VoltagePhase s cand p8 ∧ idle.length < s.cfg.activateTries ∧
      (∀ x ∈ idle, ActivateAttempt s true x) ∧ r.getLsbD 2 = true ∧ CommandReply s 55#8 r l ∧
      idle1.length = s.cfg.activateTries ∧ Replies s 1#8 (·.getLsbD 0 = true) idle1 ∧
      ps = p0 ++ p8 ++ idle.flatMap (activateParts cand) ++ [.command 55#8 0x00000000#32 0x00#8 l] ++
        idle1.map (.command 1#8 0x00000000#32 0x00#8)
  | .blocklenRejected => f ≠ .sdhc ∧ ∃ (cand : Family) (p0 p8 p55 : List Part) (l : List Byte) (r : Byte), IdlePhase s p0 ∧
      VoltagePhase s cand p8 ∧ ResolvePhase s cand f p55 ∧ r ≠ 0x00#8 ∧ CommandReply s 16#8 r l ∧
      ps = p0 ++ p8 ++ p55 ++ [.command 16#8 0x00000200#32 0x00#8 l]
  | .reservedOp | .notInit | .readyTimeout | .cmdRejected | .tokenFail | .dataRejected | .writeBusyTimeout => False
  | .eraseBusyTimeout | .stopRejected | .setblkcntRejected | .familyUnsupported => False

/-! ### An abandoned run -/

/-- Buffer memory after the block writes among these events (R51). -/
def eventsStore (m : List Host.Cell) (evs : List Event) : List Host.Cell :=
  evs.foldl (fun m e => match e with
    | .memWrite a v => memPut m a v
    | .select | .deselect | .xchg _ _ | .memRead _ _ => m) m

/-- The deselect of a reset that comes after these events: only while the card is selected (R251). -/
def resetDeselect (evs : List Event) : List Event :=
  if (selects evs).getLast? = some true then [.deselect] else []

/-! ### Worst cases, R261 -/

/-- The row of R261 for an operation whose body runs, from the state `s` it starts in; N is the sector count L_ARG1 takes. For INIT
the formula is an upper bound. For WRN "on MMC, or with SETBLKCNT_APP_PREFIX = false, subtract (6+C)"; INFO on an MMC drops the
SCR's terms (R205). -/
def worstBody (s : State) (i : Instr) : Nat :=
  let c := s.cfg
  let cmd := 6 + c.cmdRespTries
  match i with
  | .init => c.rampUpBytes + c.goIdleTries * cmd + c.vcheckTries * (10 + c.cmdRespTries) + 2 * c.activateTries * cmd +
      max (c.activateTries * cmd) (10 + c.cmdRespTries) + cmd + 1
  | .rd1 => c.idleWaitTries + cmd + (c.tokenWaitTries + 514) + 1
  | .rdn => c.idleWaitTries + cmd + s.arg1.toNat * (c.tokenWaitTries + 514) + (7 + c.cmdRespTries) + 1
  | .wr1 => c.idleWaitTries + cmd + c.writeGapBytes + 516 + c.writeBusyTries + 1
  | .wrn => c.idleWaitTries + (if s.family = .mmc ∨ c.setBlkCntAppPrefix = false then 2 else 3) * cmd + c.writeGapBytes +
      s.arg1.toNat * (516 + c.writeBusyTries) + 2 + c.idleWaitTries + 1
  | .erase => c.idleWaitTries + 3 * cmd + c.eraseBusyTries + 1
  | .info =>
    if s.family = .mmc then 2 * c.idleWaitTries + 2 * cmd + 2 * c.tokenWaitTries + 36 + 1
    else 3 * c.idleWaitTries + 4 * cmd + 3 * c.tokenWaitTries + 46 + 1
  | .stat => c.idleWaitTries + 2 * cmd + 1 + (c.tokenWaitTries + 66) + 1
  | .detect | .deinit => 0
  | .reserved0 | .reservedB | .reservedC | .reservedD | .reservedE | .reservedF => 0
  | .cmd0 _ _ | .cmd1 _ _ | .cmd8 _ _ | .cmd9 _ _ | .cmd10 _ _ | .acmd13 _ _ => cmd
  | .cmd16 _ _ | .cmd17 _ _ | .cmd18 _ _ | .cmd23 _ _ | .cmd24 _ _ | .cmd25 _ _ => cmd
  | .cmd32 _ _ | .cmd33 _ _ | .cmd38 _ _ | .acmd41 _ _ | .acmd51 _ _ | .cmd55 _ _ => cmd
  | .cmd58 _ _ => cmd
  | .cmd12 _ _ => 7 + c.cmdRespTries
  | .r1 _ | .tokenStartBlock | .tokenMultiWrite | .tokenStopTran => 1
  | .drespAccepted _ _ | .drespCrcRejected _ _ | .drespWriteError _ _ => 1

/-- The most exchanges an instruction makes from `s` (R261): none for a request that is ignored or that a pre-check ends. -/
def worstExchanges (s : State) (i : Instr) : Nat :=
  match i.opCode? with
  | some op => if s.busy = true ∨ preCheck op s ≠ none then 0 else worstBody s i
  | none => worstBody s i

/-! ### The invariant -/

/-- What holds of every state a run reaches, and every step keeps: buffer memory is canonical and inside the address space;
INIT_OK = 1 gives a family (R41); EXT32 is the assembled EXT (R37); an idle block has released the bus and stands at IDLE
or at the model's own point (R33, R34); DONE = 0 while BUSY = 1 (R22); BLKSIZE is 0 or 512 (R27, R202); LAST_DRESP is
masked (R38); and the trace counts every exchange (R61). -/
structure Inv (s : State) : Prop where
  memCanonical : memWf s.mem = true
  memInside : ∀ c ∈ s.mem, c.1 < 2 ^ s.cfg.bufAddrWidth
  familyKnown : s.initOk = true → s.family ≠ .none
  extAssembled : s.ext32 = extValue s.ext
  idleReleased : s.busy = false → s.cs = false
  idleSeq : s.busy = false → s.seq = .idle ∨ ∃ slot bytes, s.seq = .wire slot bytes
  notDoneWhileBusy : s.busy = true → s.done = false
  blockSize : s.blksize = 0x00000000#32 ∨ s.blksize = 0x00000200#32
  drespMasked : drespMask s.lastDresp = s.lastDresp
  exchangesCounted : s.xchgs = exchangeCount s.trace

end Sys2Proof.Machine
end

