-- ==== Sys2Proof/Certificates/Slice0/Obligations.lean ====
section
/-! DEFINITION. The statements for the provers, from the spec's numbered rules. `Quiet s` says that nothing arrives from outside
while the instruction runs; a bus event list is written oldest first. -/
open Sys2Proof Sys2Proof.Machine

/-! ### Encoding -/

/-- Words written out from the encodings of R70, R71, R73, R75, R77, R81 and R82 decode to what they stand for. -/
def Obligations.SampleWordsDecode : Prop :=
  decode (.request 0x80000004#32) = .ok .rd1 ∧ decode (.request 0xFFFFFFF1#32) = .ok .detect ∧
  decode (.request 0x8000000B#32) = .ok .reservedB ∧ decode (.request 0x00000004#32) = .error .startClear ∧
  decode (.wire .command [0x40#8, 0x00#8, 0x00#8, 0x00#8, 0x00#8, 0x95#8]) = .ok (.cmd0 0x00000000#32 0x4A#7) ∧
  decode (.wire .command [0x48#8, 0x00#8, 0x00#8, 0x01#8, 0xAA#8, 0x87#8]) = .ok (.cmd8 0x000001AA#32 0x43#7) ∧
  decode (.wire .command [0x51#8, 0x00#8, 0x00#8, 0x0A#8, 0x00#8, 0x01#8]) = .ok (.cmd17 0x00000A00#32 0x00#7) ∧
  decode (.wire .command [0x69#8, 0x40#8, 0x00#8, 0x00#8, 0x00#8, 0x01#8]) = .ok (.acmd41 0x40000000#32 0x00#7) ∧
  decode (.wire .response [0x05#8]) = .ok (.r1 0x05#7) ∧ decode (.wire .response [0xFF#8]) = .error .noResponse ∧
  decode (.wire .token [0xFC#8]) = .ok .tokenMultiWrite ∧
  decode (.wire .dataResponse [0xE5#8]) = .ok (.drespAccepted 0xE#4 0x1#1) ∧
  decode (.wire .dataResponse [0x0B#8]) = .ok (.drespCrcRejected 0x0#4 0x1#1) ∧
  decode (.wire .dataResponse [0xFC#8]) = .ok (.drespWriteError 0xF#4 0x0#1) ∧
  decode (.wire .dataResponse [0x06#8]) = .error .undefinedStatus

/-- Decoding the encoding of any instruction gives it back, with every operand at every value. -/
def Obligations.DecodeOfEncode : Prop := ∀ i : Instr, decode (encode i) = .ok i

/-- Encoding what was decoded from wire bytes gives those bytes back, a frame's end bit being 1 (R73). -/
def Obligations.EncodeOfDecode : Prop :=
  ∀ (slot : Slot) (bytes : List Byte) (i : Instr), decode (.wire slot bytes) = .ok i →
    (slot = .command → ∃ b, bytes.getLast? = some b ∧ b.getLsbD 0 = true) → encode i = .wire slot bytes

/-- A CTRL write with START = 1 is a request whatever its other bits, and its OP field alone selects it (R70, R71, R91). -/
def Obligations.EveryRequestDecodes : Prop :=
  ∀ w : Word, w.msb = true → ∃ i, decode (.request w) = .ok i ∧ i.opCode? = some (w.extractLsb' 0 4)

/-- The two CRC operands of R75 are the CRC7 of the frames' first five bytes, shifted left one bit (R88). -/
def Obligations.CrcConstants : Prop :=
  crc7 [0x40#8, 0x00#8, 0x00#8, 0x00#8, 0x00#8] = 0x4A#7 ∧
  frame 0#8 0x00000000#32 0x95#8 = [0x40#8, 0x00#8, 0x00#8, 0x00#8, 0x00#8, 0x95#8] ∧
  crc7 [0x48#8, 0x00#8, 0x00#8, 0x01#8, 0xAA#8] = 0x43#7 ∧
  frame 8#8 0x000001AA#32 0x87#8 = [0x48#8, 0x00#8, 0x00#8, 0x01#8, 0xAA#8, 0x87#8] ∧
  crcOperand 0x4A#7 ||| 0x01#8 = 0x95#8 ∧ crcOperand 0x43#7 ||| 0x01#8 = 0x87#8

/-! ### Steps -/

/-- A step runs the decoded instruction: the request that a due CTRL write is, on the state without that write; or the wire
format the sequencer stands before, on the state at IDLE (log 9). Both are what `placeFetch` sets up. -/
def Obligations.StepRunsDecoded : Prop :=
  (∀ (s : State) (w : Word) (i : Instr) (rest : List Arrival), s.seq.fetch? = none →
    s.inbox = { wait := 0, input := .access { offset := 0x00, width := 32, write := some w } } :: rest →
    decode (.request w) = .ok i → step s = exec i { s with inbox := rest }) ∧
  (∀ (s : State) (slot : Slot) (bytes : List Byte) (i : Instr), s.seq = .wire slot bytes →
    decode (.wire slot bytes) = .ok i → step s = exec i { s with seq := .idle }) ∧
  (∀ (s : State) (w : Word) (i : Instr), s.seq.fetch? = none → decode (.request w) = .ok i →
    step (placeFetch s (.request w)) = exec i s) ∧
  (∀ (s : State) (slot : Slot) (bytes : List Byte) (i : Instr), decode (.wire slot bytes) = .ok i →
    step (placeFetch s (.wire slot bytes)) = exec i { s with seq := .idle })

/-- What a requester's register access does: the seven registers read and written as R20 to R27 say; a CTRL write with
START = 0 has no effect. -/
def Obligations.RegisterWindow : Prop :=
  ∀ (s : State) (offset : Nat) (v : Word) (rest : List Arrival), s.seq.fetch? = none → offset % 4 = 0 →
    let read : Access := { offset := offset, width := 32, write := none }
    let write : Access := { offset := offset, width := 32, write := some v }
    (s.inbox = { wait := 0, input := .access read } :: rest →
      ∃ x, step s = .next { s with inbox := rest, rdata := x } ∧ (offset = 0x00 → x = 0x00000000#32) ∧
        (offset = 0x04 → x = statusWord s) ∧ (offset = 0x08 → x = s.arg0) ∧ (offset = 0x0C → x = s.arg1) ∧
        (offset = 0x10 → x = s.bufbase) ∧ (offset = 0x14 → x = s.capkb) ∧ (offset = 0x18 → x = s.blksize)) ∧
    (s.inbox = { wait := 0, input := .access write } :: rest →
      (offset = 0x00 → v.msb = false → step s = .next { s with inbox := rest }) ∧
      (offset = 0x04 ∨ offset = 0x14 ∨ offset = 0x18 → step s = .next { s with inbox := rest }) ∧
      (offset = 0x08 → step s = .next { s with inbox := rest, arg0 := v }) ∧
      (offset = 0x0C → step s = .next { s with inbox := rest, arg1 := v }) ∧
      (offset = 0x10 → step s = .next { s with inbox := rest, bufbase := v }))

/-- A reserved offset reads 0x00000000, and a write to one changes nothing (R28). That the block's window has no end, so that every
aligned offset from 0x1C on is one, is the model's choice (log 24). -/
def Obligations.ReservedOffsets : Prop :=
  ∀ (s : State) (offset : Nat) (v : Word) (rest : List Arrival), s.seq.fetch? = none → offset % 4 = 0 → 0x18 < offset →
    (s.inbox = { wait := 0, input := .access { offset := offset, width := 32, write := none } } :: rest →
      step s = .next { s with inbox := rest, rdata := 0x00000000#32 }) ∧
    (s.inbox = { wait := 0, input := .access { offset := offset, width := 32, write := some v } } :: rest →
      step s = .next { s with inbox := rest })

/-- Any other access width or alignment is refused (R29). -/
def Obligations.AccessOutsideRefused : Prop :=
  ∀ (s : State) (a : Access) (rest : List Arrival), s.seq.fetch? = none →
    s.inbox = { wait := 0, input := .access a } :: rest → (a.width ≠ 32 ∨ a.offset % 4 ≠ 0) →
    step s = .refused .accessOutsideInterface

/-- The bits of STATUS (R22). -/
def Obligations.StatusBits : Prop :=
  ∀ s : State, (statusWord s).getLsbD 0 = s.busy ∧
    (statusWord s).extractLsb' 1 2 = (match s.result with | .ok => 0#2 | .fail => 1#2 | .illegal => 2#2) ∧
    (statusWord s).getLsbD 3 = s.initOk ∧
    (statusWord s).extractLsb' 4 3 = (match s.family with
      | .none => 0#3 | .mmc => 1#3 | .sdscV1 => 2#3 | .sdscV2 => 3#3 | .sdhc => 4#3) ∧
    (statusWord s).getLsbD 7 = s.present ∧ (statusWord s).getLsbD 8 = s.done ∧
    (statusWord s).extractLsb' 9 23 = 0#23

/-! ### Reset -/

/-- The reset values the spec gives (R250), the counters, RES and the parameters apart. -/
def Obligations.ResetValues : Prop :=
  statusWord State.reset = 0x00000000#32 ∧ State.reset.arg0 = 0x00000000#32 ∧ State.reset.arg1 = 0x00000000#32 ∧
  State.reset.bufbase = 0x00000000#32 ∧ State.reset.capkb = 0x00000000#32 ∧ State.reset.blksize = 0x00000000#32 ∧
  State.reset.family = .none ∧ State.reset.initOk = false ∧ State.reset.seq = .idle ∧ State.reset.cs = false ∧
  State.reset.lOp = 0#4 ∧ State.reset.lArg0 = 0x00000000#32 ∧ State.reset.lArg1 = 0x00000000#32 ∧
  State.reset.lBuf = 0x00000000#32 ∧ State.reset.lastR1 = 0xFF#8 ∧ State.reset.ext.toList = [0x00#8, 0x00#8, 0x00#8, 0x00#8] ∧
  State.reset.ext32 = 0x00000000#32 ∧ State.reset.lastDresp = 0x00#8 ∧
  State.reset.csdShadow.toList = List.replicate 16 0x00#8

/-- The reset input sets the block's state to its reset values at once, whatever it was, with no exchange; chip-select is
deasserted (R250, R251). The counters and RES, which R250 leaves unspecified, are at the values log 8 chose; that memory, the
parameters and the inputs stay is log 19. -/
def Obligations.ResetInput : Prop :=
  ∀ (s : State) (rest : List Arrival), s.seq.fetch? = none → s.inbox = { wait := 0, input := .reset } :: rest →
    step s = .next { State.reset with
      mem := s.mem, cfg := s.cfg, card := s.card, xchgs := s.xchgs, pins := s.pins, pinReads := s.pinReads,
      picks := s.picks, pickCount := s.pickCount, inbox := rest, rdata := s.rdata,
      trace := (if s.cs = true then [Event.deselect] else []) ++ s.trace }

/-- A reset that arrives while an operation runs abandons it at the statement or event it lands before (R251). `q` is what the
operation does with no reset, `n` is how many statements and events a reset can land before, more than the events it makes, and
`before k` how many events come before the `k`th of them: every number up to all of them is one. A reset due at one of them
leaves the reset state (the counters and RES as log 8 chose) after those events of that run, none if it is due at once: no
further exchange or buffer access, no completion, and a deselect only if the card was selected. A later reset has not arrived
when the operation is over, and changes nothing of it. -/
def Obligations.ResetDuringOperation : Prop :=
  ∀ (s : State) (i : Instr) (op : BitVec 4), i.opCode? = some op → s.busy = false → s.cs = false → preCheck op s = none →
    ∃ (q : State) (evs : List Event) (n : Nat) (before : Nat → Nat),
      exec i { s with inbox := [] } = .next q ∧ Emits s q evs ∧ evs.length < n ∧
      (∀ k, k < n → before k ≤ k ∧ before k ≤ evs.length) ∧ (∀ m, m ≤ evs.length → ∃ k, k < n ∧ before k = m) ∧
      ∀ k, ∃ t, exec i { s with inbox := [{ wait := k, input := .reset }] } = .next t ∧
        (n ≤ k → t = { q with inbox := [{ wait := k - n, input := .reset }] }) ∧
        (k < n → t = { State.reset with
          mem := eventsStore s.mem (evs.take (before k)), cfg := s.cfg,
          card := s.card.drop (exchangeCount (evs.take (before k))),
          xchgs := s.xchgs + exchangeCount (evs.take (before k)), pins := t.pins, pinReads := t.pinReads, picks := s.picks,
          pickCount := s.pickCount, rdata := s.rdata,
          trace := (evs.take (before k) ++ resetDeselect (evs.take (before k))).reverse ++ s.trace })

/-! ### Start and pre-checks -/

/-- A CTRL write with START = 1 while BUSY = 1 changes no state, latches nothing and does not queue: as a step's instruction,
and as an arrival at a statement of the running operation (R227). -/
def Obligations.StartWhileBusyIgnored : Prop :=
  (∀ (s : State) (i : Instr) (op : BitVec 4), i.opCode? = some op → s.busy = true → exec i s = .next s) ∧
  (∀ (s : State) (w : Word), s.busy = true → w.msb = true →
    sync { s with inbox := [{ wait := 0, input := .access { offset := 0x00, width := 32, write := some w } }] } =
      .ok () { s with inbox := [] })

/-- Each reserved request is accepted and completes FAIL, with no event (R71, R222, R223; that it latches is log 22). -/
def Obligations.ReservedRequestsFail : Prop :=
  ∀ s : State, s.busy = false →
    exec .reserved0 s = .next (complete .fail (latch 0x0#4 s)) ∧ exec .reservedB s = .next (complete .fail (latch 0xB#4 s)) ∧
    exec .reservedC s = .next (complete .fail (latch 0xC#4 s)) ∧ exec .reservedD s = .next (complete .fail (latch 0xD#4 s)) ∧
    exec .reservedE s = .next (complete .fail (latch 0xE#4 s)) ∧ exec .reservedF s = .next (complete .fail (latch 0xF#4 s))

/-- ERASE and STAT on an MMC complete ILLEGAL with no event, whatever INIT_OK; INFO there does not (R223). -/
def Obligations.IllegalOnMmc : Prop :=
  ∀ s : State, s.busy = false → s.family = .mmc →
    exec .erase s = .next (complete .illegal (latch 0x8#4 s)) ∧ exec .stat s = .next (complete .illegal (latch 0xA#4 s)) ∧
    (s.initOk = true → preCheck 0x9#4 s = none)

/-- Before a successful INIT every data operation completes FAIL with no event, ERASE and STAT unless the card is an MMC (R223). -/
def Obligations.NotInitializedFails : Prop :=
  ∀ (s : State) (i : Instr) (op : BitVec 4), i.opCode? = some op → s.busy = false → s.initOk = false →
    0x4 ≤ op.toNat → op.toNat ≤ 0xA → (i = .erase ∨ i = .stat → s.family ≠ .mmc) →
    exec i s = .next (complete .fail (latch op s))

/-! ### Presence and deinitialization -/

/-- DETECT samples the presence input once and completes OK, with no event (R140); a level not listed is free (log 2). -/
def Obligations.DetectSamples : Prop :=
  ∀ s : State, Quiet s → s.busy = false → s.cs = false →
    exec .detect s = .next (complete .ok { latch 0x1#4 s with
      present := s.pins.headD (Config.pinLevel s.pinReads) == s.cfg.cdActiveLevel,
      pins := s.pins.tail, pinReads := s.pinReads + 1 })

/-- DEINIT clears INIT_OK, leaves FAMILY and completes OK, with no event (R143). -/
def Obligations.DeinitClears : Prop :=
  ∀ s : State, Quiet s → s.busy = false → s.cs = false →
    exec .deinit s = .next (complete .ok { latch 0x3#4 s with initOk := false })

/-! ### Initialization -/

/-- The rows of R144 that succeed: INIT ends OK with INIT_OK = 1 and the family the card's answers give, after exactly the events
of R142, whatever number of attempts each bounded loop takes. LAST_R1 is the last response, EXT and EXT32 are the four bytes of
the last GetExtendedResponse, first received first (R36, R37, R105); nothing but what the rule names has changed. -/
def Obligations.InitClassifies : Prop :=
  ∀ (s : State) (cand f : Family) (ramp : List Byte) (p0 p8 p55 p16 : List Part) (trail : Byte) (rest : List Byte),
    Quiet s → s.busy = false → ramp.length = s.cfg.rampUpBytes → IdlePhase s p0 → VoltagePhase s cand p8 →
    ResolvePhase s cand f p55 → BlockLenPhase s f p16 →
    s.card = ramp ++ partsBytes (p0 ++ p8 ++ p55 ++ p16) ++ trail :: rest →
    ∃ t, exec .init s = .next t ∧ t = complete .ok { latch 0x2#4 s with
      initOk := true, family := f, cs := false, card := rest, tries := t.tries,
      lastR1 := (p0 ++ p8 ++ p55 ++ p16).foldl Part.lastR1 s.lastR1,
      ext := (p0 ++ p8 ++ p55 ++ p16).foldl Part.lastExt s.ext, ext32 := partsExt32 s (p0 ++ p8 ++ p55 ++ p16),
      xchgs := s.xchgs + (ramp.length + (partsBytes (p0 ++ p8 ++ p55 ++ p16)).length + 1),
      trace := (pollEvents ramp ++ selectEvents ++ partsEvents s (p0 ++ p8 ++ p55 ++ p16) ++ releaseEvents trail).reverse ++
        s.trace }

/-- INIT's failing exits, R221's causes 3 to 7: no CMD0 answered 0x01, no echo that matches, an ACMD41 or CMD1 loop that leaves
the card idle, or CMD16 rejected. After exactly the bound's attempts and nothing more, Release, FAIL with INIT_OK = 0, and FAMILY as
last assigned: NONE for the first two, the candidate, MMC, and the resolved family (R142). LAST_R1, EXT and EXT32 are the last
received; nothing but what the rule names has changed. -/
def Obligations.InitFailures : Prop :=
  ∀ (s : State) (c : Cause) (f : Family) (ramp : List Byte) (ps : List Part) (trail : Byte) (rest : List Byte), Quiet s →
    s.busy = false → ramp.length = s.cfg.rampUpBytes → InitFails s f ps c →
    s.card = ramp ++ partsBytes ps ++ trail :: rest →
    ∃ t, exec .init s = .next t ∧ t = complete .fail { latch 0x2#4 s with
      initOk := false, family := f, cs := false, card := rest, tries := t.tries, lastR1 := ps.foldl Part.lastR1 s.lastR1,
      ext := ps.foldl Part.lastExt s.ext, ext32 := partsExt32 s ps,
      xchgs := s.xchgs + (ramp.length + (partsBytes ps).length + 1),
      trace := (pollEvents ramp ++ selectEvents ++ partsEvents s ps ++ releaseEvents trail).reverse ++ s.trace }

/-- Whatever the card answers, INIT completes OK with INIT_OK = 1 and a family, or FAIL with INIT_OK = 0, never ILLEGAL; it
touches no buffer byte (R142, R144). -/
def Obligations.InitOutcomes : Prop :=
  ∀ s : State, Quiet s → s.busy = false → ∃ t, exec .init s = .next t ∧ t.busy = false ∧ t.done = true ∧
    ((t.result = .ok ∧ t.initOk = true ∧ t.family ≠ .none) ∨ (t.result = .fail ∧ t.initOk = false)) ∧
    t.mem = s.mem ∧ t.capkb = s.capkb ∧ t.blksize = s.blksize ∧ t.present = s.present

/-- Whatever the card answers, INIT first exchanges RAMPUP_BYTES fillers with chip-select deasserted, and then selects (R142). -/
def Obligations.InitRampsUp : Prop :=
  ∀ s : State, Quiet s → s.busy = false → ∃ (t : State) (ins : List Byte) (evs : List Event), exec .init s = .next t ∧
    ins.length = s.cfg.rampUpBytes ∧ Emits s t (pollEvents ins ++ selectEvents ++ evs)

/-! ### Block transfers -/

/-- RD1: the whole successful path, its events and the state it leaves (R172, R177). The hidden counters are the model's choice (log 26). -/
def Obligations.Rd1ReadsSector : Prop :=
  ∀ (s : State) (w c : List Byte) (b : BlockIn) (trail : Byte) (rest : List Byte), Quiet s → Ready s →
    WritesAdmitted s s.bufbase.toNat 512 → IdleReply s w → CommandReply s 17#8 0x00#8 c → b.Good s 512 →
    s.card = w ++ c ++ b.bytes ++ trail :: rest →
    exec .rd1 s = .next (complete .ok { latch 0x4#4 s with
      cs := false, lastR1 := 0x00#8, byteIdx := 511, tries := s.cfg.tokenWaitTries - b.wait.length,
      mem := storeBytes s.cfg.bufAddrWidth s.bufbase.toNat b.payload s.mem,
      card := rest, xchgs := s.xchgs + (w.length + c.length + (b.wait.length + 512 + 2) + 1),
      trace := (selectEvents ++ pollEvents w ++ commandEvents 17#8 (adjust s.family s.arg0) 0x00#8 c ++
        b.events s.cfg.bufAddrWidth s.bufbase.toNat ++ releaseEvents trail).reverse ++ s.trace })

/-- RD1 whose token wait brings no 0xFE, another byte or 0xFF on every read the bound allows: FAIL, and no buffer byte is touched
(R122, R125, R172). The hidden counters are the model's choice (log 26). -/
def Obligations.Rd1WrongToken : Prop :=
  ∀ (s : State) (w c t : List Byte) (trail : Byte) (rest : List Byte), Quiet s → Ready s → IdleReply s w →
    CommandReply s 17#8 0x00#8 c → NoStartToken s t → s.card = w ++ c ++ t ++ trail :: rest →
    exec .rd1 s = .next (complete .fail { latch 0x4#4 s with
      cs := false, lastR1 := 0x00#8, tries := s.cfg.tokenWaitTries - t.length,
      card := rest, xchgs := s.xchgs + (w.length + c.length + t.length + 1),
      trace := (selectEvents ++ pollEvents w ++ commandEvents 17#8 (adjust s.family s.arg0) 0x00#8 c ++ pollEvents t ++
        releaseEvents trail).reverse ++ s.trace })

/-- RDN: L_ARG1 sectors, then CMD12 with its stuff byte; the whole successful path (R173, R177). A count of 0 is among them. -/
def Obligations.RdnReadsSectors : Prop :=
  ∀ (s : State) (w c12 c18 : List Byte) (bs : List BlockIn) (trail : Byte) (rest : List Byte), Quiet s → Ready s →
    WritesAdmitted s s.bufbase.toNat (512 * s.arg1.toNat) → IdleReply s w → CommandReply s 18#8 0x00#8 c18 →
    bs.length = s.arg1.toNat → (∀ b ∈ bs, b.Good s 512) → CommandReply s 12#8 0x00#8 c12 →
    s.card = w ++ c18 ++ (bs.map BlockIn.bytes).flatten ++ c12 ++ trail :: rest →
    ∃ t, exec .rdn s = .next t ∧ t = complete .ok { latch 0x5#4 s with
      cs := false, lastR1 := 0x00#8, res := .ok, byteIdx := t.byteIdx, sector := t.sector, tries := t.tries,
      mem := sectorsStored s.cfg.bufAddrWidth s.bufbase.toNat bs s.mem,
      card := rest, xchgs := s.xchgs + (w.length + c18.length + (bs.map BlockIn.bytes).flatten.length + c12.length + 1),
      trace := (selectEvents ++ pollEvents w ++ commandEvents 18#8 (adjust s.family s.arg0) 0x00#8 c18 ++
        sectorsInEvents s.cfg.bufAddrWidth s.bufbase.toNat bs ++ commandEvents 12#8 0x00000000#32 0x00#8 c12 ++
        releaseEvents trail).reverse ++ s.trace }

/-- RDN fails in its transfer: no 0xFE before a sector, another token or none within the bound (the sectors before it are stored,
that sector's bytes are untouched), or the stop command answered by another byte than 0x00 after the last one. CMD12 is sent
either way, and its response after a failed sector does not change the cause: the outcome is FAIL (R173). -/
def Obligations.RdnFailureCloses : Prop :=
  ∀ (s : State) (w c12 c18 t : List Byte) (bs : List BlockIn) (cause : Cause) (r12 trail : Byte) (rest : List Byte), Quiet s →
    Ready s → WritesAdmitted s s.bufbase.toNat (512 * s.arg1.toNat) → IdleReply s w → CommandReply s 18#8 0x00#8 c18 →
    (∀ b ∈ bs, b.Good s 512) → RdnFails s bs.length s.arg1.toNat t r12 cause → CommandReply s 12#8 r12 c12 →
    s.card = w ++ c18 ++ (bs.map BlockIn.bytes).flatten ++ t ++ c12 ++ trail :: rest →
    ∃ u, exec .rdn s = .next u ∧ u = complete .fail { latch 0x5#4 s with
      cs := false, lastR1 := r12, res := .failed cause, byteIdx := u.byteIdx, sector := u.sector, tries := u.tries,
      mem := sectorsStored s.cfg.bufAddrWidth s.bufbase.toNat bs s.mem, card := rest,
      xchgs := s.xchgs + (w.length + c18.length + (bs.map BlockIn.bytes).flatten.length + t.length + c12.length + 1),
      trace := (selectEvents ++ pollEvents w ++ commandEvents 18#8 (adjust s.family s.arg0) 0x00#8 c18 ++
        sectorsInEvents s.cfg.bufAddrWidth s.bufbase.toNat bs ++ pollEvents t ++
        commandEvents 12#8 0x00000000#32 0x00#8 c12 ++ releaseEvents trail).reverse ++ s.trace }

/-- WR1: the whole successful path, its events and the state it leaves; buffer memory is only read (R174, R177).
The hidden counters are the model's choice (log 26). -/
def Obligations.Wr1WritesSector : Prop :=
  ∀ (s : State) (w c gap : List Byte) (b : BlockOut) (trail : Byte) (rest : List Byte), Quiet s → Ready s →
    ReadsAdmitted s s.bufbase.toNat 512 → IdleReply s w → CommandReply s 24#8 0x00#8 c →
    gap.length = s.cfg.writeGapBytes → b.Good s → s.card = w ++ c ++ gap ++ b.bytes ++ trail :: rest →
    exec .wr1 s = .next (complete .ok { latch 0x6#4 s with
      cs := false, lastR1 := 0x00#8, lastDresp := 0x04#8, byteIdx := 511, tries := s.cfg.writeBusyTries - b.busy.length,
      card := rest, xchgs := s.xchgs + (w.length + c.length + gap.length + 516 + b.busy.length + 1),
      trace := (selectEvents ++ pollEvents w ++ commandEvents 24#8 (adjust s.family s.arg0) 0x00#8 c ++ pollEvents gap ++
        b.events s.cfg.bufAddrWidth s.mem 0xFE#8 s.bufbase.toNat ++ releaseEvents trail).reverse ++ s.trace })

/-- WR1 whose block is rejected: FAIL at once, with no wait for the end of the writing (R82, R126, R174).
The hidden counters are the model's choice (log 26). -/
def Obligations.Wr1DataRejected : Prop :=
  ∀ (s : State) (w c gap : List Byte) (b : BlockOut) (trail : Byte) (rest : List Byte), Quiet s → Ready s →
    ReadsAdmitted s s.bufbase.toNat 512 → IdleReply s w → CommandReply s 24#8 0x00#8 c →
    gap.length = s.cfg.writeGapBytes → b.payload.length = 512 → b.crc.length = 2 → b.busy = [] →
    b.dresp &&& 0x0E#8 ≠ 0x04#8 → s.card = w ++ c ++ gap ++ b.bytes ++ trail :: rest →
    ∃ t, exec .wr1 s = .next t ∧ t = complete .fail { latch 0x6#4 s with
      cs := false, lastR1 := 0x00#8, lastDresp := b.dresp &&& 0x0E#8, byteIdx := 511, tries := t.tries, card := rest,
      xchgs := s.xchgs + (w.length + c.length + gap.length + 516 + 1),
      trace := (selectEvents ++ pollEvents w ++ commandEvents 24#8 (adjust s.family s.arg0) 0x00#8 c ++ pollEvents gap ++
        b.events s.cfg.bufAddrWidth s.mem 0xFE#8 s.bufbase.toNat ++ releaseEvents trail).reverse ++ s.trace }

/-- WRN: the announced count for a card that is no MMC, CMD25, the gap, L_ARG1 blocks after 0xFC each, then 0xFD, one byte and
the wait-ready; the whole successful path (R175, R177). A count of 0 is among them. The hidden counters are the model's choice (log 26). -/
def Obligations.WrnWritesSectors : Prop :=
  ∀ (s : State) (w gap w2 : List Byte) (cs : List (List Byte)) (bs : List BlockOut) (a1 a2 trail : Byte) (rest : List Byte),
    Quiet s → Ready s → ReadsAdmitted s s.bufbase.toNat (512 * s.arg1.toNat) → IdleReply s w →
    CommandReplies s (announceCommands s ++ [(25#8, adjust s.family s.arg0)]) cs → gap.length = s.cfg.writeGapBytes →
    bs.length = s.arg1.toNat → (∀ b ∈ bs, b.Good s) → IdleReply s w2 →
    s.card = w ++ cs.flatten ++ gap ++ (bs.map BlockOut.bytes).flatten ++ [a1, a2] ++ w2 ++ trail :: rest →
    ∃ t, exec .wrn s = .next t ∧ t = complete .ok { latch 0x7#4 s with
      cs := false, lastR1 := 0x00#8, lastDresp := if bs = [] then s.lastDresp else 0x04#8, res := .ok,
      byteIdx := t.byteIdx, sector := t.sector, tries := s.cfg.idleWaitTries - w2.length, card := rest,
      xchgs := s.xchgs + (w.length + cs.flatten.length + gap.length + (bs.map BlockOut.bytes).flatten.length + 2 +
        w2.length + 1),
      trace := (selectEvents ++ pollEvents w ++
        commandsEvents (announceCommands s ++ [(25#8, adjust s.family s.arg0)]) cs ++ pollEvents gap ++
        sectorsOutEvents s.cfg.bufAddrWidth s.mem s.bufbase.toNat bs ++ [Event.xchg 0xFD#8 a1, Event.xchg 0xFF#8 a2] ++
        pollEvents w2 ++ releaseEvents trail).reverse ++ s.trace }

/-- WRN fails in its transfer: a block rejected or its writing not ended within the bound (the remaining sectors are not sent), or
the closing wait-ready exhausted after the last one. 0xFD, the byte and the wait-ready follow either way, a failure of that wait
does not change an earlier cause, and the outcome is FAIL (R175). The hidden counters are the model's choice (log 26). -/
def Obligations.WrnFailureCloses : Prop :=
  ∀ (s : State) (w gap w2 : List Byte) (cs : List (List Byte)) (bs last : List BlockOut) (cause : Cause) (a1 a2 trail : Byte)
    (rest : List Byte), Quiet s → Ready s → ReadsAdmitted s s.bufbase.toNat (512 * s.arg1.toNat) → IdleReply s w →
    CommandReplies s (announceCommands s ++ [(25#8, adjust s.family s.arg0)]) cs → gap.length = s.cfg.writeGapBytes →
    (∀ b ∈ bs, b.Good s) → WrnFails s bs.length s.arg1.toNat last cause w2 →
    s.card = w ++ cs.flatten ++ gap ++ ((bs ++ last).map BlockOut.bytes).flatten ++ [a1, a2] ++ w2 ++ trail :: rest →
    ∃ t, exec .wrn s = .next t ∧ t = complete .fail { latch 0x7#4 s with
      cs := false, lastR1 := 0x00#8, res := .failed cause,
      lastDresp := match (bs ++ last).getLast? with
        | some b => b.dresp &&& 0x0E#8
        | none => s.lastDresp
      byteIdx := t.byteIdx, sector := t.sector, tries := s.cfg.idleWaitTries - w2.length, card := rest,
      xchgs := s.xchgs + (w.length + cs.flatten.length + gap.length + ((bs ++ last).map BlockOut.bytes).flatten.length + 2 +
        w2.length + 1),
      trace := (selectEvents ++ pollEvents w ++
        commandsEvents (announceCommands s ++ [(25#8, adjust s.family s.arg0)]) cs ++ pollEvents gap ++
        sectorsOutEvents s.cfg.bufAddrWidth s.mem s.bufbase.toNat (bs ++ last) ++
        [Event.xchg 0xFD#8 a1, Event.xchg 0xFF#8 a2] ++ pollEvents w2 ++ releaseEvents trail).reverse ++ s.trace }

/-- ERASE: CMD32, CMD33 and CMD38 with both adjusted endpoints, in whatever order they stand, then the erase-busy wait; the
whole successful path (R176, R177). The hidden counters are the model's choice (log 26). -/
def Obligations.EraseErases : Prop :=
  ∀ (s : State) (w e : List Byte) (cs : List (List Byte)) (trail : Byte) (rest : List Byte), Quiet s → Ready s →
    s.family ≠ .mmc → IdleReply s w →
    CommandReplies s [(32#8, adjust s.family s.arg0), (33#8, adjust s.family s.arg1), (38#8, 0x00000000#32)] cs →
    WaitReply busIdle s.cfg.eraseBusyTries 0xFF#8 e → s.card = w ++ cs.flatten ++ e ++ trail :: rest →
    exec .erase s = .next (complete .ok { latch 0x8#4 s with
      cs := false, lastR1 := 0x00#8, tries := s.cfg.eraseBusyTries - e.length, card := rest,
      xchgs := s.xchgs + (w.length + cs.flatten.length + e.length + 1),
      trace := (selectEvents ++ pollEvents w ++
        commandsEvents [(32#8, adjust s.family s.arg0), (33#8, adjust s.family s.arg1), (38#8, 0x00000000#32)] cs ++
        pollEvents e ++ releaseEvents trail).reverse ++ s.trace })

/-! ### Register reads -/

/-- INFO on an MMC: CSD and CID, no SCR; the whole successful path, CAPKB and BLKSIZE (R200, R202, R205).
The hidden counters are the model's choice (log 26). -/
def Obligations.InfoOnMmc : Prop :=
  ∀ (s : State) (w1 w2 c9 c10 : List Byte) (csd : Vector Byte 16) (b1 b2 : BlockIn) (trail : Byte) (rest : List Byte),
    Quiet s → Ready s → s.family = .mmc → WritesAdmitted s s.bufbase.toNat 32 → IdleReply s w1 →
    CommandReply s 9#8 0x00#8 c9 → b1.Good s 16 → b1.payload = csd.toList → IdleReply s w2 →
    CommandReply s 10#8 0x00#8 c10 → b2.Good s 16 →
    s.card = w1 ++ c9 ++ b1.bytes ++ w2 ++ c10 ++ b2.bytes ++ trail :: rest →
    exec .info s = .next (complete .ok { latch 0x9#4 s with
      cs := false, lastR1 := 0x00#8, byteIdx := 15, tries := s.cfg.tokenWaitTries - b2.wait.length, csdShadow := csd,
      capkb := capacityKB csd, blksize := 0x00000200#32,
      mem := storeBytes s.cfg.bufAddrWidth (s.bufbase.toNat + 16) b2.payload
        (storeBytes s.cfg.bufAddrWidth s.bufbase.toNat b1.payload s.mem),
      card := rest,
      xchgs := s.xchgs + (w1.length + c9.length + (b1.wait.length + 18) + w2.length + c10.length + (b2.wait.length + 18) + 1),
      trace := (selectEvents ++ pollEvents w1 ++ commandEvents 9#8 0x00000000#32 0x00#8 c9 ++
        b1.events s.cfg.bufAddrWidth s.bufbase.toNat ++ pollEvents w2 ++ commandEvents 10#8 0x00000000#32 0x00#8 c10 ++
        b2.events s.cfg.bufAddrWidth (s.bufbase.toNat + 16) ++ releaseEvents trail).reverse ++ s.trace })

/-- INFO on any other card: CSD, CID and SCR; the whole successful path, CAPKB and BLKSIZE (R200, R202, R205).
The hidden counters are the model's choice (log 26). -/
def Obligations.InfoWithScr : Prop :=
  ∀ (s : State) (w1 w2 w3 c9 c10 c55 c51 : List Byte) (csd : Vector Byte 16) (b1 b2 b3 : BlockIn) (trail : Byte)
    (rest : List Byte), Quiet s → Ready s → s.family ≠ .mmc → WritesAdmitted s s.bufbase.toNat 40 → IdleReply s w1 →
    CommandReply s 9#8 0x00#8 c9 → b1.Good s 16 → b1.payload = csd.toList → IdleReply s w2 →
    CommandReply s 10#8 0x00#8 c10 → b2.Good s 16 → IdleReply s w3 → CommandReply s 55#8 0x00#8 c55 →
    CommandReply s 51#8 0x00#8 c51 → b3.Good s 8 →
    s.card = w1 ++ c9 ++ b1.bytes ++ w2 ++ c10 ++ b2.bytes ++ w3 ++ c55 ++ c51 ++ b3.bytes ++ trail :: rest →
    exec .info s = .next (complete .ok { latch 0x9#4 s with
      cs := false, lastR1 := 0x00#8, byteIdx := 7, tries := s.cfg.tokenWaitTries - b3.wait.length, csdShadow := csd,
      capkb := capacityKB csd, blksize := 0x00000200#32,
      mem := storeBytes s.cfg.bufAddrWidth (s.bufbase.toNat + 32) b3.payload
        (storeBytes s.cfg.bufAddrWidth (s.bufbase.toNat + 16) b2.payload
          (storeBytes s.cfg.bufAddrWidth s.bufbase.toNat b1.payload s.mem)),
      card := rest,
      xchgs := s.xchgs + (w1.length + c9.length + (b1.wait.length + 18) + w2.length + c10.length + (b2.wait.length + 18) +
        w3.length + c55.length + c51.length + (b3.wait.length + 10) + 1),
      trace := (selectEvents ++ pollEvents w1 ++ commandEvents 9#8 0x00000000#32 0x00#8 c9 ++
        b1.events s.cfg.bufAddrWidth s.bufbase.toNat ++ pollEvents w2 ++ commandEvents 10#8 0x00000000#32 0x00#8 c10 ++
        b2.events s.cfg.bufAddrWidth (s.bufbase.toNat + 16) ++ pollEvents w3 ++
        commandEvents 55#8 0x00000000#32 0x00#8 c55 ++ commandEvents 51#8 0x00000000#32 0x00#8 c51 ++
        b3.events s.cfg.bufAddrWidth (s.bufbase.toNat + 32) ++ releaseEvents trail).reverse ++ s.trace })

/-- STAT on a card that is no MMC: the whole successful path; the second R2 byte is read and not tested (R203, R205).
The hidden counters are the model's choice (log 26). -/
def Obligations.StatReadsStatus : Prop :=
  ∀ (s : State) (w c55 c13 : List Byte) (r2 : Byte) (b : BlockIn) (trail : Byte) (rest : List Byte), Quiet s → Ready s →
    s.family ≠ .mmc → WritesAdmitted s s.bufbase.toNat 64 → IdleReply s w → CommandReply s 55#8 0x00#8 c55 →
    CommandReply s 13#8 0x00#8 c13 → b.Good s 64 → s.card = w ++ c55 ++ c13 ++ [r2] ++ b.bytes ++ trail :: rest →
    exec .stat s = .next (complete .ok { latch 0xA#4 s with
      cs := false, lastR1 := 0x00#8, byteIdx := 63, tries := s.cfg.tokenWaitTries - b.wait.length,
      mem := storeBytes s.cfg.bufAddrWidth s.bufbase.toNat b.payload s.mem,
      card := rest, xchgs := s.xchgs + (w.length + c55.length + c13.length + 1 + (b.wait.length + 66) + 1),
      trace := (selectEvents ++ pollEvents w ++ commandEvents 55#8 0x00000000#32 0x00#8 c55 ++
        commandEvents 13#8 0x00000000#32 0x00#8 c13 ++ pollEvents [r2] ++
        b.events s.cfg.bufAddrWidth s.bufbase.toNat ++ releaseEvents trail).reverse ++ s.trace })

/-- CAPKB is the capacity R201 derives from the CSD's fields, as exact integers. -/
def Obligations.CapacityFormula : Prop :=
  ∀ csd : Vector Byte 16,
    (csd[0].toNat / 64 = 1 → (capacityKB csd).toNat =
      (((csd[7].toNat % 64) * 65536 + csd[8].toNat * 256 + csd[9].toNat) + 1) * 2 ^ (csd[5].toNat % 16) % 2 ^ 32) ∧
    (csd[0].toNat / 64 ≠ 1 → (capacityKB csd).toNat =
      (((csd[6].toNat % 4) * 1024 + csd[7].toNat * 4 + csd[8].toNat / 64) + 1) *
        2 ^ ((csd[9].toNat % 4) * 2 + csd[10].toNat / 128 + 2) * 2 ^ (csd[5].toNat % 16) / 1024)

/-- CAPKB and BLKSIZE: only an INFO that completes OK writes them, with the derived capacity and 512; no other instruction and
no failed INFO changes them, whatever else arrives but a reset (R26, R27, R202). -/
def Obligations.OnlyInfoSetsCapacity : Prop :=
  ∀ (i : Instr) (s t : State), (∀ a ∈ s.inbox, a.input ≠ .reset) → exec i s = .next t →
    (t.capkb = s.capkb ∧ t.blksize = s.blksize) ∨
      (i = .info ∧ t.result = .ok ∧ t.busy = false ∧ t.done = true ∧ t.capkb = capacityKB t.csdShadow ∧
        t.blksize = 0x00000200#32)

/-- The block size a successful INFO reports is always 512, whatever the card's family, the CSD and what arrives meanwhile (R202). -/
def Obligations.BlockSizeIs512 : Prop :=
  ∀ s t : State, s.busy = false → exec .info s = .next t → t.done = true → t.result = .ok → t.blksize = 0x00000200#32

/-! ### Failures of the data operations -/

/-- A card busy through the whole wait-ready: each data operation makes exactly IDLE_WAIT_TRIES reads, sends no command, and
completes FAIL after Release (R120, R121, R170). The hidden counters are the model's choice (log 26). -/
def Obligations.ReadyTimeoutFails : Prop :=
  ∀ (s : State) (i : Instr) (op : BitVec 4) (busy : List Byte) (trail : Byte) (rest : List Byte), i.opCode? = some op →
    0x4 ≤ op.toNat → op.toNat ≤ 0xA → (i = .erase ∨ i = .stat → s.family ≠ .mmc) → Quiet s → Ready s →
    busy.length = s.cfg.idleWaitTries → (∀ x ∈ busy, x ≠ 0xFF#8) → s.card = busy ++ trail :: rest →
    exec i s = .next (complete .fail { latch op s with
      cs := false, tries := 0, card := rest, xchgs := s.xchgs + (busy.length + 1),
      trace := (selectEvents ++ pollEvents busy ++ releaseEvents trail).reverse ++ s.trace })

/-- The first command of a data operation answered by anything but 0x00, an exhausted poll's byte included: FAIL after Release,
and nothing else is sent (R104, R106, R171). The hidden counters are the model's choice (log 26). -/
def Obligations.FirstCommandRejected : Prop :=
  ∀ (s : State) (i : Instr) (op : BitVec 4) (idx r : Byte) (arg : Word) (w c : List Byte) (trail : Byte) (rest : List Byte),
    i.opCode? = some op → firstCommand s i = some (idx, arg) → (i = .erase ∨ i = .stat → s.family ≠ .mmc) → Quiet s →
    Ready s → IdleReply s w → CommandReply s idx r c → r ≠ 0x00#8 → s.card = w ++ c ++ trail :: rest →
    exec i s = .next (complete .fail { latch op s with
      cs := false, lastR1 := r, tries := s.cfg.cmdRespTries - (c.length - 6), card := rest,
      xchgs := s.xchgs + (w.length + c.length + 1),
      trace := (selectEvents ++ pollEvents w ++ commandEvents idx arg 0x00#8 c ++ releaseEvents trail).reverse ++ s.trace })

/-- The first phase that fails ends the body of a data operation, whichever phase it is: an exhausted wait-ready, a rejected
command (CMD23 after CMD55, CMD25, CMD33, CMD38, CMD10, ACMD51, ACMD13 and the others alike), no start token, a rejected block, a
writing or an erase that does not end. Nothing of the body follows but Release, and the outcome is FAIL; what the phases before
it stored stays (R170, R171, R221, R223, R224). For RDN and WRN it speaks of the phases before the transfer opens. -/
def Obligations.FirstFailureEnds : Prop :=
  ∀ (s : State) (i : Instr) (op : BitVec 4) (pre post : List Phase) (ph : Phase) (ps : List Part) (p : Part) (trail : Byte)
    (rest : List Byte), i.opCode? = some op → preCheck op s = none → s.busy = false → Quiet s →
    phases s i = pre ++ ph :: post → (∀ x ∈ pre, x.Admitted s) → List.Forall₂ (fun x y => x.Passes s y) pre ps →
    ph.Fails s p → s.card = partsBytes (ps ++ [p]) ++ trail :: rest →
    ∃ t, exec i s = .next t ∧ (i ≠ .info → t.csdShadow = s.csdShadow) ∧ t = complete .fail { latch op s with
      cs := false, lastR1 := (ps ++ [p]).foldl Part.lastR1 s.lastR1,
      lastDresp := (ps ++ [p]).foldl Part.lastDresp s.lastDresp, csdShadow := t.csdShadow, byteIdx := t.byteIdx,
      tries := t.tries, mem := partsStore s (ps ++ [p]), card := rest,
      xchgs := s.xchgs + ((partsBytes (ps ++ [p])).length + 1),
      trace := (selectEvents ++ partsEvents s (ps ++ [p]) ++ releaseEvents trail).reverse ++ s.trace }

/-- A buffer access the platform does not admit, in any phase of any data operation and at any byte, a read or a write: the
phases before it passed, the bytes before it moved, and the operation stands stuck there with BUSY = 1 and the card selected; the
machine makes no further step while nothing arrives (R55, D38; the fault's name is log 6). -/
def Obligations.UnadmittedAccessIsStuck : Prop :=
  ∀ (s : State) (i : Instr) (op : BitVec 4) (pre post : List Phase) (ph : Phase) (ps : List Part) (p : Part) (rest : List Byte),
    i.opCode? = some op → preCheck op s = none → s.busy = false → Quiet s →
    phases s i ++ loopPhases s i = pre ++ ph :: post → (∀ x ∈ pre, x.Admitted s) →
    List.Forall₂ (fun x y => x.Passes s y) pre ps → ph.Sticks s p → s.card = partsBytes (ps ++ [p]) ++ rest →
    ∃ u, exec i s = .next u ∧ u.busy = true ∧ u.done = false ∧ u.result = s.result ∧ u.cs = true ∧ u.inbox = [] ∧
      u.card = rest ∧ u.mem = partsStore s (ps ++ [p]) ∧ Emits s u (selectEvents ++ partsEvents s (ps ++ [p])) ∧
      step u = .fault .stuckOnBuffer

/-! ### The wire rows -/

/-- Each command row sends its frame, the stuff byte if it is CMD12, and polls for the response: the state it leaves (R73, R102,
R103, R108). The hidden counters are the model's choice (log 26). -/
def Obligations.CommandRowsAnswer : Prop :=
  ∀ (s : State) (i : Instr) (idx r : Byte) (arg : Word) (crc : BitVec 7) (l rest : List Byte),
    i.command? = some (idx, arg, crc) → Quiet s → CommandReply s idx r l → s.card = l ++ rest →
    exec i s = .next { s with
      lastR1 := r, tries := s.cfg.cmdRespTries - (l.length - (if idx = 12#8 then 7 else 6)), card := rest,
      xchgs := s.xchgs + l.length,
      trace := (commandEvents idx arg (crcOperand crc) l).reverse ++ s.trace }

/-- No poll has bit 7 = 0: exactly CMD_RESP_TRIES polls, and LAST_R1 is the last polled byte (R104).
The hidden counters are the model's choice (log 26). -/
def Obligations.CommandRowsExhaust : Prop :=
  ∀ (s : State) (i : Instr) (idx last : Byte) (arg : Word) (crc : BitVec 7) (junk polls rest : List Byte),
    i.command? = some (idx, arg, crc) → Quiet s → junk.length = (if idx = 12#8 then 7 else 6) →
    polls.length = s.cfg.cmdRespTries → (∀ b ∈ polls, b.getLsbD 7 = true) → polls.getLast? = some last →
    s.card = junk ++ polls ++ rest →
    exec i s = .next { s with
      lastR1 := last, tries := 0, card := rest, xchgs := s.xchgs + (junk.length + polls.length),
      trace := (commandEvents idx arg (crcOperand crc) (junk ++ polls)).reverse ++ s.trace }

/-- The frame of the command rows: whatever the card answers, each completes, and only LAST_R1, the try counter and what the bus
did have changed; memory, STATUS, FAMILY and every other register keep their values (R102). -/
def Obligations.CommandRowFrame : Prop :=
  ∀ (s : State) (i : Instr) (c : Byte × Word × BitVec 7), i.command? = some c → Quiet s →
    ∃ t, exec i s = .next t ∧ t.card = s.card.drop (t.xchgs - s.xchgs) ∧
      t = { s with lastR1 := t.lastR1, tries := t.tries, card := t.card, xchgs := t.xchgs, trace := t.trace }

/-- The row R1: one poll that receives it, and LAST_R1 holds it (R77, R102). -/
def Obligations.R1Received : Prop :=
  ∀ (s : State) (status : BitVec 7), Quiet s →
    exec (.r1 status) s = .next { s with
      lastR1 := 0#1 ++ status, xchgs := s.xchgs + 1, trace := .xchg 0xFF#8 (0#1 ++ status) :: s.trace }

/-- The token rows: one exchange that sends the token (R81). -/
def Obligations.TokensSent : Prop :=
  ∀ s : State, Quiet s →
    exec .tokenStartBlock s = .next { s with
      card := s.card.tail, xchgs := s.xchgs + 1, trace := .xchg 0xFE#8 (cardAnswer s) :: s.trace } ∧
    exec .tokenMultiWrite s = .next { s with
      card := s.card.tail, xchgs := s.xchgs + 1, trace := .xchg 0xFC#8 (cardAnswer s) :: s.trace } ∧
    exec .tokenStopTran s = .next { s with
      card := s.card.tail, xchgs := s.xchgs + 1, trace := .xchg 0xFD#8 (cardAnswer s) :: s.trace }

/-- The data-response rows: one exchange that receives the byte, and LAST_DRESP holds its masked value (R82, R126). -/
def Obligations.DataResponsesReceived : Prop :=
  ∀ (s : State) (hi : BitVec 4) (lo : BitVec 1), Quiet s →
    exec (.drespAccepted hi lo) s = .next { s with
      lastDresp := 0x04#8, xchgs := s.xchgs + 1, trace := .xchg 0xFF#8 (hi ++ 0b010#3 ++ lo) :: s.trace } ∧
    exec (.drespCrcRejected hi lo) s = .next { s with
      lastDresp := 0x0A#8, xchgs := s.xchgs + 1, trace := .xchg 0xFF#8 (hi ++ 0b101#3 ++ lo) :: s.trace } ∧
    exec (.drespWriteError hi lo) s = .next { s with
      lastDresp := 0x0C#8, xchgs := s.xchgs + 1, trace := .xchg 0xFF#8 (hi ++ 0b110#3 ++ lo) :: s.trace }

/-- ReadDataResponse: one exchange; LAST_DRESP holds the masked byte; the block is accepted if and only if that is 0x04, that
is, bits 3:1 are 010, whatever bits 7:4 and 0 (R82, R126). -/
def Obligations.AcceptanceIs04 : Prop :=
  ∀ (s : State) (d : Byte) (rest : List Byte), Quiet s → s.card = d :: rest →
    readDataResponse s = .ok (decide (d &&& 0x0E#8 = 0x04#8)) { s with
      lastDresp := d &&& 0x0E#8, card := rest, xchgs := s.xchgs + 1, trace := .xchg 0xFF#8 d :: s.trace } ∧
    (d &&& 0x0E#8 = 0x04#8 ↔ d.extractLsb' 1 3 = 0b010#3)

/-! ### Addresses -/

/-- Address-adjust: the sector index for SDHC; otherwise the low 32 bits of the index times 512, a multiple of 512 (R59, R69). -/
def Obligations.AddressAdjust : Prop :=
  ∀ (f : Family) (x : Word), (f = .sdhc → adjust f x = x) ∧
    (f ≠ .sdhc → (adjust f x).toNat = x.toNat * 512 % 2 ^ 32 ∧ (adjust f x).toNat % 512 = 0)

/-! ### What an instruction leaves unchanged -/

/-- The frame of every request, whatever the card answers, when nothing arrives from outside: what the rule of the operation does
not name keeps its value; no byte of memory changes but those its rule stores to, from BUFBASE on. -/
def Obligations.RequestFrame : Prop :=
  ∀ (i : Instr) (op : BitVec 4) (s t : State), i.opCode? = some op → Quiet s → (s.busy = false → s.cs = false) →
    exec i s = .next t →
    (t.arg0 = s.arg0 ∧ t.arg1 = s.arg1 ∧ t.bufbase = s.bufbase ∧ t.cfg = s.cfg ∧ t.rdata = s.rdata ∧ t.inbox = [] ∧
      t.picks = s.picks ∧ t.pickCount = s.pickCount) ∧
    (i ≠ .detect → t.present = s.present ∧ t.pins = s.pins ∧ t.pinReads = s.pinReads) ∧
    (i ≠ .init → t.family = s.family ∧ t.ext = s.ext ∧ t.ext32 = s.ext32) ∧
    (i ≠ .init → i ≠ .deinit → t.initOk = s.initOk) ∧
    (i ≠ .wr1 → i ≠ .wrn → t.lastDresp = s.lastDresp) ∧
    (i ≠ .info → t.csdShadow = s.csdShadow ∧ t.capkb = s.capkb ∧ t.blksize = s.blksize) ∧
    (i ≠ .rdn → i ≠ .wrn → t.res = s.res ∧ t.sector = s.sector) ∧
    (i ≠ .init → firstCommand s i = none → t.lastR1 = s.lastR1 ∧ t.card = s.card ∧ t.xchgs = s.xchgs) ∧
    (∀ a, ¬ InBuffer s.cfg.bufAddrWidth s.bufbase.toNat (storeLength s i) a → memGet t.mem a = memGet s.mem a)

/-- Only INIT writes FAMILY, and only INIT and DEINIT write INIT_OK, whatever arrives but a reset (R31, R32). -/
def Obligations.FamilyWriters : Prop :=
  ∀ (i : Instr) (s t : State), (∀ a ∈ s.inbox, a.input ≠ .reset) → exec i s = .next t →
    (i ≠ .init → t.family = s.family) ∧ (i ≠ .init → i ≠ .deinit → t.initOk = s.initOk)

/-- The operands are latched: an operand register that the requester writes while the operation runs changes that register alone,
to the value written, and nothing else of what the operation does (R35). `n` is how many statements and events the access can
land before, more than the events the operation makes; one due later has not arrived when the operation is over. -/
def Obligations.OperandsAreLatched : Prop :=
  ∀ (i : Instr) (op : BitVec 4) (s t : State) (evs : List Event) (offset : Nat) (v : Word), i.opCode? = some op → Quiet s →
    s.busy = false → preCheck op s = none → (offset = 0x08 ∨ offset = 0x0C ∨ offset = 0x10) → exec i s = .next t →
    Emits s t evs →
    ∃ n, evs.length < n ∧ ∀ k,
      let write : Input := .access { offset := offset, width := 32, write := some v }
      (k < n → exec i { s with inbox := [{ wait := k, input := write }] } = .next { t with
        arg0 := if offset = 0x08 then v else s.arg0, arg1 := if offset = 0x0C then v else s.arg1,
        bufbase := if offset = 0x10 then v else s.bufbase }) ∧
      (n ≤ k → exec i { s with inbox := [{ wait := k, input := write }] } = .next { t with
        inbox := [{ wait := k - n, input := write }] })

/-- The race on a buffer byte (R64, R255). A block read of a byte the requester wrote while the operation runs gives its present
value or one that gave way, and every such value for some choice; so does a requester read of a byte the block wrote. While
BUSY = 1 each side's write of a byte the other has not written puts its value there and keeps the overwritten one among those a
racing read may give; of a byte the other side has written, either value may stand, and the reads of both sides may give either
(log 3, the model's choice). The clauses on writes are about buffer memory in canonical form, which StepKeepsInvariant says
every step keeps. -/
def Obligations.RacesGiveEither : Prop :=
  (∀ (s : State) (a : Nat), Quiet s → inRegions s.cfg.noRead (bufAddr s a) = false →
    let values := memGet s.mem (bufAddr s a) :: oldValues (bufAddr s a) s.reqOld
    (∀ v t, memRead a s = .ok v t → v ∈ values) ∧
    (∀ v ∈ values, ∃ p t, memRead a { s with picks := [p] } = .ok v t)) ∧
  (∀ (s : State) (a : Nat), s.busy = true →
    let values := memGet s.mem (bufAddr s a) :: oldValues (bufAddr s a) s.blkOld
    (∃ v ∈ values, (requesterRead s a).rdata = v.setWidth 32) ∧
    (∀ v ∈ values, ∃ p, (requesterRead { s with picks := [p] } a).rdata = v.setWidth 32)) ∧
  (∀ (s : State) (a : Nat) (v : Byte), memWf s.mem = true → s.busy = true →
    let b := bufAddr s a
    (oldValues b s.blkOld = [] → requesterWrite s a v = { s with
      mem := memPut s.mem b v, reqOld := (b, memGet s.mem b) :: s.reqOld }) ∧
    (oldValues b s.blkOld ≠ [] →
      (∀ w, (w = v ∨ w = memGet s.mem b) ↔ ∃ p, memGet (requesterWrite { s with picks := [p] } a v).mem b = w) ∧
      ∀ w t, (w = v ∨ w = memGet s.mem b) → t = requesterWrite s a v →
        w ∈ memGet t.mem b :: oldValues b t.reqOld ∧ w ∈ memGet t.mem b :: oldValues b t.blkOld)) ∧
  (∀ (s : State) (a : Nat) (v : Byte), memWf s.mem = true → Quiet s → inRegions s.cfg.noWrite (bufAddr s a) = false →
    let b := bufAddr s a
    (oldValues b s.reqOld = [] → memWrite a v s = .ok () { s with
      mem := memPut s.mem b v, blkOld := (b, memGet s.mem b) :: s.blkOld, trace := .memWrite b v :: s.trace }) ∧
    (oldValues b s.reqOld ≠ [] →
      (∀ w, (w = v ∨ w = memGet s.mem b) ↔ ∃ p t, memWrite a v { s with picks := [p] } = .ok () t ∧ memGet t.mem b = w) ∧
      ∀ w t, (w = v ∨ w = memGet s.mem b) → memWrite a v s = .ok () t →
        w ∈ memGet t.mem b :: oldValues b t.reqOld ∧ w ∈ memGet t.mem b :: oldValues b t.blkOld))

/-! ### The whole machine -/

/-- The invariant holds at reset. -/
def Obligations.ResetMeetsInvariant : Prop := Inv State.reset

/-- Every step keeps the invariant (R22, R27, R33, R34, R37, R38, R41, R61, and the memory's canonical form). -/
def Obligations.StepKeepsInvariant : Prop := ∀ s t : State, Inv s → step s = .next t → Inv t

/-- Whenever INIT_OK = 1, FAMILY is one of the four card families: at reset, kept by every step, and in whatever STATUS a
requester reads at any statement or event of a running instruction (R41, R142). Where such a read can land is the model's choice:
before every statement and event (log 5), but not between INIT's `FAMILY <- 0` and `INIT_OK <- 0` (log 28, DEDUCED). -/
def Obligations.FamilyKnown : Prop :=
  (State.reset.initOk = true → familyCode State.reset.family ∈ [1#3, 2#3, 3#3, 4#3]) ∧
  (∀ s t : State, (s.initOk = true → familyCode s.family ∈ [1#3, 2#3, 3#3, 4#3]) → step s = .next t →
    t.initOk = true → familyCode t.family ∈ [1#3, 2#3, 3#3, 4#3]) ∧
  (∀ (i : Instr) (s t : State) (k : Nat), (s.initOk = true → familyCode s.family ∈ [1#3, 2#3, 3#3, 4#3]) →
    s.inbox = [{ wait := k, input := .access { offset := 0x04, width := 32, write := none } }] → exec i s = .next t →
    t.inbox = [] → t.rdata.getLsbD 3 = true → t.rdata.extractLsb' 4 3 ∈ [1#3, 2#3, 3#3, 4#3])

/-- Every operation completes, whatever the card answers and whatever arrives but a reset, where the platform admits every
buffer access: BUSY = 0, DONE = 1, SEQ at IDLE, chip-select deasserted, and the latched operands still there (R222, R224, R236). That a reserved operation code latches them too
is the model's choice, against R71's words (log 22). -/
def Obligations.EveryOperationCompletes : Prop :=
  ∀ (i : Instr) (op : BitVec 4) (s : State), i.opCode? = some op → s.busy = false → s.cs = false → AllAdmitted s →
    (∀ a ∈ s.inbox, a.input ≠ .reset) → ∃ t, exec i s = .next t ∧
      t.busy = false ∧ t.done = true ∧ t.seq = .idle ∧ t.cs = false ∧
      t.lOp = op ∧ t.lArg0 = s.arg0 ∧ t.lArg1 = s.arg1 ∧ t.lBuf = s.bufbase

/-- The bus: an operation that no pre-check ends and that is neither DETECT nor DEINIT selects the card exactly once, and
deselects it exactly once unless it is stuck; every other request makes no event at all (R34, R223, R232). -/
def Obligations.OneSelectOneDeselect : Prop :=
  ∀ (i : Instr) (op : BitVec 4) (s t : State), i.opCode? = some op → s.cs = false → (∀ a ∈ s.inbox, a.input ≠ .reset) →
    exec i s = .next t → ∃ evs, Emits s t evs ∧
      (if s.busy = true ∨ preCheck op s ≠ none ∨ i = .detect ∨ i = .deinit then evs = []
       else selects evs = [true, false] ∨ (t.busy = true ∧ selects evs = [true]))

/-- No card behaviour and nothing that arrives makes an instruction exchange more bytes than the worst case R261 gives it: none for a
request that a pre-check ends or that is ignored, one command less for WRN on an MMC or without the prefix. -/
def Obligations.ExchangesBounded : Prop :=
  ∀ (i : Instr) (s t : State), (s.busy = false → s.cs = false) → exec i s = .next t →
    s.xchgs ≤ t.xchgs ∧ t.xchgs ≤ s.xchgs + worstExchanges s i
end

