-- ==== Sys2Proof/Laws/State.lean ====
section
/-! SUPPORT. One lemma per field per named update of State, so that no proof unfolds a record update. -/
namespace Sys2Proof.Machine

@[simp] theorem latch_busy (op : BitVec 4) (s : State) : (latch op s).busy = true := rfl
@[simp] theorem latch_result (op : BitVec 4) (s : State) : (latch op s).result = s.result := rfl
@[simp] theorem latch_present (op : BitVec 4) (s : State) : (latch op s).present = s.present := rfl
@[simp] theorem latch_done (op : BitVec 4) (s : State) : (latch op s).done = false := rfl
@[simp] theorem latch_arg0 (op : BitVec 4) (s : State) : (latch op s).arg0 = s.arg0 := rfl
@[simp] theorem latch_arg1 (op : BitVec 4) (s : State) : (latch op s).arg1 = s.arg1 := rfl
@[simp] theorem latch_bufbase (op : BitVec 4) (s : State) : (latch op s).bufbase = s.bufbase := rfl
@[simp] theorem latch_capkb (op : BitVec 4) (s : State) : (latch op s).capkb = s.capkb := rfl
@[simp] theorem latch_blksize (op : BitVec 4) (s : State) : (latch op s).blksize = s.blksize := rfl
@[simp] theorem latch_family (op : BitVec 4) (s : State) : (latch op s).family = s.family := rfl
@[simp] theorem latch_initOk (op : BitVec 4) (s : State) : (latch op s).initOk = s.initOk := rfl
@[simp] theorem latch_seq (op : BitVec 4) (s : State) : (latch op s).seq = s.seq := rfl
@[simp] theorem latch_cs (op : BitVec 4) (s : State) : (latch op s).cs = s.cs := rfl
@[simp] theorem latch_lOp (op : BitVec 4) (s : State) : (latch op s).lOp = op := rfl
@[simp] theorem latch_lArg0 (op : BitVec 4) (s : State) : (latch op s).lArg0 = s.arg0 := rfl
@[simp] theorem latch_lArg1 (op : BitVec 4) (s : State) : (latch op s).lArg1 = s.arg1 := rfl
@[simp] theorem latch_lBuf (op : BitVec 4) (s : State) : (latch op s).lBuf = s.bufbase := rfl
@[simp] theorem latch_lastR1 (op : BitVec 4) (s : State) : (latch op s).lastR1 = s.lastR1 := rfl
@[simp] theorem latch_ext (op : BitVec 4) (s : State) : (latch op s).ext = s.ext := rfl
@[simp] theorem latch_ext32 (op : BitVec 4) (s : State) : (latch op s).ext32 = s.ext32 := rfl
@[simp] theorem latch_lastDresp (op : BitVec 4) (s : State) : (latch op s).lastDresp = s.lastDresp := rfl
@[simp] theorem latch_csdShadow (op : BitVec 4) (s : State) : (latch op s).csdShadow = s.csdShadow := rfl
@[simp] theorem latch_tries (op : BitVec 4) (s : State) : (latch op s).tries = s.tries := rfl
@[simp] theorem latch_sector (op : BitVec 4) (s : State) : (latch op s).sector = s.sector := rfl
@[simp] theorem latch_byteIdx (op : BitVec 4) (s : State) : (latch op s).byteIdx = s.byteIdx := rfl
@[simp] theorem latch_res (op : BitVec 4) (s : State) : (latch op s).res = s.res := rfl
@[simp] theorem latch_mem (op : BitVec 4) (s : State) : (latch op s).mem = s.mem := rfl
@[simp] theorem latch_cfg (op : BitVec 4) (s : State) : (latch op s).cfg = s.cfg := rfl
@[simp] theorem latch_card (op : BitVec 4) (s : State) : (latch op s).card = s.card := rfl
@[simp] theorem latch_xchgs (op : BitVec 4) (s : State) : (latch op s).xchgs = s.xchgs := rfl
@[simp] theorem latch_pins (op : BitVec 4) (s : State) : (latch op s).pins = s.pins := rfl
@[simp] theorem latch_pinReads (op : BitVec 4) (s : State) : (latch op s).pinReads = s.pinReads := rfl
@[simp] theorem latch_picks (op : BitVec 4) (s : State) : (latch op s).picks = s.picks := rfl
@[simp] theorem latch_pickCount (op : BitVec 4) (s : State) : (latch op s).pickCount = s.pickCount := rfl
@[simp] theorem latch_reqOld (op : BitVec 4) (s : State) : (latch op s).reqOld = [] := rfl
@[simp] theorem latch_blkOld (op : BitVec 4) (s : State) : (latch op s).blkOld = [] := rfl
@[simp] theorem latch_inbox (op : BitVec 4) (s : State) : (latch op s).inbox = s.inbox := rfl
@[simp] theorem latch_trace (op : BitVec 4) (s : State) : (latch op s).trace = s.trace := rfl
@[simp] theorem latch_rdata (op : BitVec 4) (s : State) : (latch op s).rdata = s.rdata := rfl

@[simp] theorem complete_busy (o : Result) (s : State) : (complete o s).busy = false := rfl
@[simp] theorem complete_result (o : Result) (s : State) : (complete o s).result = o := rfl
@[simp] theorem complete_present (o : Result) (s : State) : (complete o s).present = s.present := rfl
@[simp] theorem complete_done (o : Result) (s : State) : (complete o s).done = true := rfl
@[simp] theorem complete_arg0 (o : Result) (s : State) : (complete o s).arg0 = s.arg0 := rfl
@[simp] theorem complete_arg1 (o : Result) (s : State) : (complete o s).arg1 = s.arg1 := rfl
@[simp] theorem complete_bufbase (o : Result) (s : State) : (complete o s).bufbase = s.bufbase := rfl
@[simp] theorem complete_capkb (o : Result) (s : State) : (complete o s).capkb = s.capkb := rfl
@[simp] theorem complete_blksize (o : Result) (s : State) : (complete o s).blksize = s.blksize := rfl
@[simp] theorem complete_family (o : Result) (s : State) : (complete o s).family = s.family := rfl
@[simp] theorem complete_initOk (o : Result) (s : State) : (complete o s).initOk = s.initOk := rfl
@[simp] theorem complete_seq (o : Result) (s : State) : (complete o s).seq = .idle := rfl
@[simp] theorem complete_cs (o : Result) (s : State) : (complete o s).cs = s.cs := rfl
@[simp] theorem complete_lOp (o : Result) (s : State) : (complete o s).lOp = s.lOp := rfl
@[simp] theorem complete_lArg0 (o : Result) (s : State) : (complete o s).lArg0 = s.lArg0 := rfl
@[simp] theorem complete_lArg1 (o : Result) (s : State) : (complete o s).lArg1 = s.lArg1 := rfl
@[simp] theorem complete_lBuf (o : Result) (s : State) : (complete o s).lBuf = s.lBuf := rfl
@[simp] theorem complete_lastR1 (o : Result) (s : State) : (complete o s).lastR1 = s.lastR1 := rfl
@[simp] theorem complete_ext (o : Result) (s : State) : (complete o s).ext = s.ext := rfl
@[simp] theorem complete_ext32 (o : Result) (s : State) : (complete o s).ext32 = s.ext32 := rfl
@[simp] theorem complete_lastDresp (o : Result) (s : State) : (complete o s).lastDresp = s.lastDresp := rfl
@[simp] theorem complete_csdShadow (o : Result) (s : State) : (complete o s).csdShadow = s.csdShadow := rfl
@[simp] theorem complete_tries (o : Result) (s : State) : (complete o s).tries = s.tries := rfl
@[simp] theorem complete_sector (o : Result) (s : State) : (complete o s).sector = s.sector := rfl
@[simp] theorem complete_byteIdx (o : Result) (s : State) : (complete o s).byteIdx = s.byteIdx := rfl
@[simp] theorem complete_res (o : Result) (s : State) : (complete o s).res = s.res := rfl
@[simp] theorem complete_mem (o : Result) (s : State) : (complete o s).mem = s.mem := rfl
@[simp] theorem complete_cfg (o : Result) (s : State) : (complete o s).cfg = s.cfg := rfl
@[simp] theorem complete_card (o : Result) (s : State) : (complete o s).card = s.card := rfl
@[simp] theorem complete_xchgs (o : Result) (s : State) : (complete o s).xchgs = s.xchgs := rfl
@[simp] theorem complete_pins (o : Result) (s : State) : (complete o s).pins = s.pins := rfl
@[simp] theorem complete_pinReads (o : Result) (s : State) : (complete o s).pinReads = s.pinReads := rfl
@[simp] theorem complete_picks (o : Result) (s : State) : (complete o s).picks = s.picks := rfl
@[simp] theorem complete_pickCount (o : Result) (s : State) : (complete o s).pickCount = s.pickCount := rfl
@[simp] theorem complete_reqOld (o : Result) (s : State) : (complete o s).reqOld = [] := rfl
@[simp] theorem complete_blkOld (o : Result) (s : State) : (complete o s).blkOld = [] := rfl
@[simp] theorem complete_inbox (o : Result) (s : State) : (complete o s).inbox = s.inbox := rfl
@[simp] theorem complete_trace (o : Result) (s : State) : (complete o s).trace = s.trace := rfl
@[simp] theorem complete_rdata (o : Result) (s : State) : (complete o s).rdata = s.rdata := rfl

@[simp] theorem heard_busy (s : State) (outs ins : List Byte) : (heard s outs ins).busy = s.busy := rfl
@[simp] theorem heard_result (s : State) (outs ins : List Byte) : (heard s outs ins).result = s.result := rfl
@[simp] theorem heard_present (s : State) (outs ins : List Byte) : (heard s outs ins).present = s.present := rfl
@[simp] theorem heard_done (s : State) (outs ins : List Byte) : (heard s outs ins).done = s.done := rfl
@[simp] theorem heard_arg0 (s : State) (outs ins : List Byte) : (heard s outs ins).arg0 = s.arg0 := rfl
@[simp] theorem heard_arg1 (s : State) (outs ins : List Byte) : (heard s outs ins).arg1 = s.arg1 := rfl
@[simp] theorem heard_bufbase (s : State) (outs ins : List Byte) : (heard s outs ins).bufbase = s.bufbase := rfl
@[simp] theorem heard_capkb (s : State) (outs ins : List Byte) : (heard s outs ins).capkb = s.capkb := rfl
@[simp] theorem heard_blksize (s : State) (outs ins : List Byte) : (heard s outs ins).blksize = s.blksize := rfl
@[simp] theorem heard_family (s : State) (outs ins : List Byte) : (heard s outs ins).family = s.family := rfl
@[simp] theorem heard_initOk (s : State) (outs ins : List Byte) : (heard s outs ins).initOk = s.initOk := rfl
@[simp] theorem heard_seq (s : State) (outs ins : List Byte) : (heard s outs ins).seq = s.seq := rfl
@[simp] theorem heard_cs (s : State) (outs ins : List Byte) : (heard s outs ins).cs = s.cs := rfl
@[simp] theorem heard_lOp (s : State) (outs ins : List Byte) : (heard s outs ins).lOp = s.lOp := rfl
@[simp] theorem heard_lArg0 (s : State) (outs ins : List Byte) : (heard s outs ins).lArg0 = s.lArg0 := rfl
@[simp] theorem heard_lArg1 (s : State) (outs ins : List Byte) : (heard s outs ins).lArg1 = s.lArg1 := rfl
@[simp] theorem heard_lBuf (s : State) (outs ins : List Byte) : (heard s outs ins).lBuf = s.lBuf := rfl
@[simp] theorem heard_lastR1 (s : State) (outs ins : List Byte) : (heard s outs ins).lastR1 = s.lastR1 := rfl
@[simp] theorem heard_ext (s : State) (outs ins : List Byte) : (heard s outs ins).ext = s.ext := rfl
@[simp] theorem heard_ext32 (s : State) (outs ins : List Byte) : (heard s outs ins).ext32 = s.ext32 := rfl
@[simp] theorem heard_lastDresp (s : State) (outs ins : List Byte) : (heard s outs ins).lastDresp = s.lastDresp := rfl
@[simp] theorem heard_csdShadow (s : State) (outs ins : List Byte) : (heard s outs ins).csdShadow = s.csdShadow := rfl
@[simp] theorem heard_tries (s : State) (outs ins : List Byte) : (heard s outs ins).tries = s.tries := rfl
@[simp] theorem heard_sector (s : State) (outs ins : List Byte) : (heard s outs ins).sector = s.sector := rfl
@[simp] theorem heard_byteIdx (s : State) (outs ins : List Byte) : (heard s outs ins).byteIdx = s.byteIdx := rfl
@[simp] theorem heard_res (s : State) (outs ins : List Byte) : (heard s outs ins).res = s.res := rfl
@[simp] theorem heard_mem (s : State) (outs ins : List Byte) : (heard s outs ins).mem = s.mem := rfl
@[simp] theorem heard_cfg (s : State) (outs ins : List Byte) : (heard s outs ins).cfg = s.cfg := rfl
@[simp] theorem heard_card (s : State) (outs ins : List Byte) : (heard s outs ins).card = s.card.drop ins.length := rfl
@[simp] theorem heard_xchgs (s : State) (outs ins : List Byte) : (heard s outs ins).xchgs = s.xchgs + ins.length := rfl
@[simp] theorem heard_pins (s : State) (outs ins : List Byte) : (heard s outs ins).pins = s.pins := rfl
@[simp] theorem heard_pinReads (s : State) (outs ins : List Byte) : (heard s outs ins).pinReads = s.pinReads := rfl
@[simp] theorem heard_picks (s : State) (outs ins : List Byte) : (heard s outs ins).picks = s.picks := rfl
@[simp] theorem heard_pickCount (s : State) (outs ins : List Byte) : (heard s outs ins).pickCount = s.pickCount := rfl
@[simp] theorem heard_reqOld (s : State) (outs ins : List Byte) : (heard s outs ins).reqOld = s.reqOld := rfl
@[simp] theorem heard_blkOld (s : State) (outs ins : List Byte) : (heard s outs ins).blkOld = s.blkOld := rfl
@[simp] theorem heard_inbox (s : State) (outs ins : List Byte) : (heard s outs ins).inbox = s.inbox := rfl
@[simp] theorem heard_trace (s : State) (outs ins : List Byte) : (heard s outs ins).trace = (xchgEvents outs ins).reverse ++ s.trace := rfl
@[simp] theorem heard_rdata (s : State) (outs ins : List Byte) : (heard s outs ins).rdata = s.rdata := rfl

@[simp] theorem resetBlock_busy (s : State) : (resetBlock s).busy = State.reset.busy := rfl
@[simp] theorem resetBlock_result (s : State) : (resetBlock s).result = State.reset.result := rfl
@[simp] theorem resetBlock_present (s : State) : (resetBlock s).present = State.reset.present := rfl
@[simp] theorem resetBlock_done (s : State) : (resetBlock s).done = State.reset.done := rfl
@[simp] theorem resetBlock_arg0 (s : State) : (resetBlock s).arg0 = State.reset.arg0 := rfl
@[simp] theorem resetBlock_arg1 (s : State) : (resetBlock s).arg1 = State.reset.arg1 := rfl
@[simp] theorem resetBlock_bufbase (s : State) : (resetBlock s).bufbase = State.reset.bufbase := rfl
@[simp] theorem resetBlock_capkb (s : State) : (resetBlock s).capkb = State.reset.capkb := rfl
@[simp] theorem resetBlock_blksize (s : State) : (resetBlock s).blksize = State.reset.blksize := rfl
@[simp] theorem resetBlock_family (s : State) : (resetBlock s).family = State.reset.family := rfl
@[simp] theorem resetBlock_initOk (s : State) : (resetBlock s).initOk = State.reset.initOk := rfl
@[simp] theorem resetBlock_seq (s : State) : (resetBlock s).seq = State.reset.seq := rfl
@[simp] theorem resetBlock_cs (s : State) : (resetBlock s).cs = State.reset.cs := rfl
@[simp] theorem resetBlock_lOp (s : State) : (resetBlock s).lOp = State.reset.lOp := rfl
@[simp] theorem resetBlock_lArg0 (s : State) : (resetBlock s).lArg0 = State.reset.lArg0 := rfl
@[simp] theorem resetBlock_lArg1 (s : State) : (resetBlock s).lArg1 = State.reset.lArg1 := rfl
@[simp] theorem resetBlock_lBuf (s : State) : (resetBlock s).lBuf = State.reset.lBuf := rfl
@[simp] theorem resetBlock_lastR1 (s : State) : (resetBlock s).lastR1 = State.reset.lastR1 := rfl
@[simp] theorem resetBlock_ext (s : State) : (resetBlock s).ext = State.reset.ext := rfl
@[simp] theorem resetBlock_ext32 (s : State) : (resetBlock s).ext32 = State.reset.ext32 := rfl
@[simp] theorem resetBlock_lastDresp (s : State) : (resetBlock s).lastDresp = State.reset.lastDresp := rfl
@[simp] theorem resetBlock_csdShadow (s : State) : (resetBlock s).csdShadow = State.reset.csdShadow := rfl
@[simp] theorem resetBlock_tries (s : State) : (resetBlock s).tries = State.reset.tries := rfl
@[simp] theorem resetBlock_sector (s : State) : (resetBlock s).sector = State.reset.sector := rfl
@[simp] theorem resetBlock_byteIdx (s : State) : (resetBlock s).byteIdx = State.reset.byteIdx := rfl
@[simp] theorem resetBlock_res (s : State) : (resetBlock s).res = State.reset.res := rfl
@[simp] theorem resetBlock_mem (s : State) : (resetBlock s).mem = s.mem := rfl
@[simp] theorem resetBlock_cfg (s : State) : (resetBlock s).cfg = s.cfg := rfl
@[simp] theorem resetBlock_card (s : State) : (resetBlock s).card = s.card := rfl
@[simp] theorem resetBlock_xchgs (s : State) : (resetBlock s).xchgs = s.xchgs := rfl
@[simp] theorem resetBlock_pins (s : State) : (resetBlock s).pins = s.pins := rfl
@[simp] theorem resetBlock_pinReads (s : State) : (resetBlock s).pinReads = s.pinReads := rfl
@[simp] theorem resetBlock_picks (s : State) : (resetBlock s).picks = s.picks := rfl
@[simp] theorem resetBlock_pickCount (s : State) : (resetBlock s).pickCount = s.pickCount := rfl
@[simp] theorem resetBlock_reqOld (s : State) : (resetBlock s).reqOld = State.reset.reqOld := rfl
@[simp] theorem resetBlock_blkOld (s : State) : (resetBlock s).blkOld = State.reset.blkOld := rfl
@[simp] theorem resetBlock_inbox (s : State) : (resetBlock s).inbox = s.inbox := rfl
@[simp] theorem resetBlock_trace (s : State) : (resetBlock s).trace = if s.cs then .deselect :: s.trace else s.trace := rfl
@[simp] theorem resetBlock_rdata (s : State) : (resetBlock s).rdata = s.rdata := rfl

@[simp] theorem withTries_busy (s : State) (n : Nat) : (withTries s n).busy = s.busy := rfl
@[simp] theorem withTries_result (s : State) (n : Nat) : (withTries s n).result = s.result := rfl
@[simp] theorem withTries_present (s : State) (n : Nat) : (withTries s n).present = s.present := rfl
@[simp] theorem withTries_done (s : State) (n : Nat) : (withTries s n).done = s.done := rfl
@[simp] theorem withTries_arg0 (s : State) (n : Nat) : (withTries s n).arg0 = s.arg0 := rfl
@[simp] theorem withTries_arg1 (s : State) (n : Nat) : (withTries s n).arg1 = s.arg1 := rfl
@[simp] theorem withTries_bufbase (s : State) (n : Nat) : (withTries s n).bufbase = s.bufbase := rfl
@[simp] theorem withTries_capkb (s : State) (n : Nat) : (withTries s n).capkb = s.capkb := rfl
@[simp] theorem withTries_blksize (s : State) (n : Nat) : (withTries s n).blksize = s.blksize := rfl
@[simp] theorem withTries_family (s : State) (n : Nat) : (withTries s n).family = s.family := rfl
@[simp] theorem withTries_initOk (s : State) (n : Nat) : (withTries s n).initOk = s.initOk := rfl
@[simp] theorem withTries_seq (s : State) (n : Nat) : (withTries s n).seq = s.seq := rfl
@[simp] theorem withTries_cs (s : State) (n : Nat) : (withTries s n).cs = s.cs := rfl
@[simp] theorem withTries_lOp (s : State) (n : Nat) : (withTries s n).lOp = s.lOp := rfl
@[simp] theorem withTries_lArg0 (s : State) (n : Nat) : (withTries s n).lArg0 = s.lArg0 := rfl
@[simp] theorem withTries_lArg1 (s : State) (n : Nat) : (withTries s n).lArg1 = s.lArg1 := rfl
@[simp] theorem withTries_lBuf (s : State) (n : Nat) : (withTries s n).lBuf = s.lBuf := rfl
@[simp] theorem withTries_lastR1 (s : State) (n : Nat) : (withTries s n).lastR1 = s.lastR1 := rfl
@[simp] theorem withTries_ext (s : State) (n : Nat) : (withTries s n).ext = s.ext := rfl
@[simp] theorem withTries_ext32 (s : State) (n : Nat) : (withTries s n).ext32 = s.ext32 := rfl
@[simp] theorem withTries_lastDresp (s : State) (n : Nat) : (withTries s n).lastDresp = s.lastDresp := rfl
@[simp] theorem withTries_csdShadow (s : State) (n : Nat) : (withTries s n).csdShadow = s.csdShadow := rfl
@[simp] theorem withTries_tries (s : State) (n : Nat) : (withTries s n).tries = n := rfl
@[simp] theorem withTries_sector (s : State) (n : Nat) : (withTries s n).sector = s.sector := rfl
@[simp] theorem withTries_byteIdx (s : State) (n : Nat) : (withTries s n).byteIdx = s.byteIdx := rfl
@[simp] theorem withTries_res (s : State) (n : Nat) : (withTries s n).res = s.res := rfl
@[simp] theorem withTries_mem (s : State) (n : Nat) : (withTries s n).mem = s.mem := rfl
@[simp] theorem withTries_cfg (s : State) (n : Nat) : (withTries s n).cfg = s.cfg := rfl
@[simp] theorem withTries_card (s : State) (n : Nat) : (withTries s n).card = s.card := rfl
@[simp] theorem withTries_xchgs (s : State) (n : Nat) : (withTries s n).xchgs = s.xchgs := rfl
@[simp] theorem withTries_pins (s : State) (n : Nat) : (withTries s n).pins = s.pins := rfl
@[simp] theorem withTries_pinReads (s : State) (n : Nat) : (withTries s n).pinReads = s.pinReads := rfl
@[simp] theorem withTries_picks (s : State) (n : Nat) : (withTries s n).picks = s.picks := rfl
@[simp] theorem withTries_pickCount (s : State) (n : Nat) : (withTries s n).pickCount = s.pickCount := rfl
@[simp] theorem withTries_reqOld (s : State) (n : Nat) : (withTries s n).reqOld = s.reqOld := rfl
@[simp] theorem withTries_blkOld (s : State) (n : Nat) : (withTries s n).blkOld = s.blkOld := rfl
@[simp] theorem withTries_inbox (s : State) (n : Nat) : (withTries s n).inbox = s.inbox := rfl
@[simp] theorem withTries_trace (s : State) (n : Nat) : (withTries s n).trace = s.trace := rfl
@[simp] theorem withTries_rdata (s : State) (n : Nat) : (withTries s n).rdata = s.rdata := rfl

end Sys2Proof.Machine
end

