-- ==== Sys2Proof/Laws/Blk.lean ====
section
/-! SUPPORT. How a piece of the sequencer's work runs: its primitives applied to a state, what sequencing does, and `Steps`,
a reflexive and transitive relation that every part of a piece keeps (so the whole keeps it). -/
namespace Sys2Proof.Machine

variable {α β : Type}

@[simp] theorem blk_pure (a : α) (s : State) : (pure a : Blk α) s = .ok a s := rfl

@[simp] theorem blk_get (s : State) : (get : Blk State) s = .ok s s := rfl

@[simp] theorem blk_set (t s : State) : (set t : Blk PUnit) s = .ok ⟨⟩ t := rfl

@[simp] theorem blk_modify (f : State → State) (s : State) : (modify f : Blk PUnit) s = .ok ⟨⟩ (f s) := rfl

@[simp] theorem blk_throw (e : Stop) (s : State) : (throw e : Blk α) s = .error e s := rfl

@[simp] theorem blk_raise (c : Cause) (s : State) : raise c s = .error (.raised c) s := rfl

/-- Sequencing: the rest runs on what the first piece leaves, unless it stops. -/
theorem blk_bind (m : Blk α) (f : α → Blk β) (s : State) :
    (m >>= f) s = match m s with
      | .ok a s' => f a s'
      | .error e s' => .error e s' := by
  cases h : m s <;> simp [bind, EStateM.bind, h]

theorem blk_bind_ok {m : Blk α} {s s' : State} {a : α} (h : m s = .ok a s') (f : α → Blk β) :
    (m >>= f) s = f a s' := by rw [blk_bind, h]

theorem blk_bind_error {m : Blk α} {s s' : State} {e : Stop} (h : m s = .error e s') (f : α → Blk β) :
    (m >>= f) s = .error e s' := by rw [blk_bind, h]

/-- What a sequence that does not stop went through. -/
theorem blk_bind_inv {m : Blk α} {f : α → Blk β} {s t : State} {b : β} (h : (m >>= f) s = .ok b t) :
    ∃ a s', m s = .ok a s' ∧ f a s' = .ok b t := by
  rw [blk_bind] at h
  split at h
  · exact ⟨_, _, ‹_›, h⟩
  · cases h

/-- The state a piece leaves, whether it stops or not. -/
theorem alone_ok {m : Blk α} {s t : State} {a : α} (h : m s = .ok a t) : alone m s = t := by rw [alone, h]

theorem alone_error {m : Blk α} {s t : State} {e : Stop} (h : m s = .error e t) : alone m s = t := by rw [alone, h]

theorem alone_congr {m m' : Blk α} {s s' : State} (h : m s = m' s') : alone m s = alone m' s' := by
  rw [alone, alone, h]

/-! ### A relation every part keeps -/

/-- From whatever state a piece runs on, `R` holds to the state it leaves, whether it stops or not. -/
def Steps (R : State → State → Prop) (m : Blk α) : Prop := ∀ s, R s (alone m s)

/-- A relation that sequencing keeps. -/
structure Chain (R : State → State → Prop) : Prop where
  refl : ∀ s, R s s
  trans : ∀ s t u, R s t → R t u → R s u

variable {R : State → State → Prop}

theorem Steps.pure (hR : Chain R) (a : α) : Steps R (pure a : Blk α) := fun s => hR.refl s

theorem Steps.raise (hR : Chain R) (c : Cause) : Steps R (raise c) := fun s => hR.refl s

theorem Steps.throw (hR : Chain R) (e : Stop) : Steps R (throw e : Blk α) := fun s => hR.refl s

theorem Steps.get (hR : Chain R) : Steps R (get : Blk State) := fun s => hR.refl s

theorem Steps.modify {f : State → State} (h : ∀ s, R s (f s)) : Steps R (modify f : Blk PUnit) := h

theorem Steps.bind (hR : Chain R) {m : Blk α} {f : α → Blk β} (hm : Steps R m) (hf : ∀ a, Steps R (f a)) :
    Steps R (m >>= f) := by
  intro s
  have h1 := hm s
  cases hms : m s with
  | ok a s' =>
    rw [alone_ok hms] at h1
    have : alone (m >>= f) s = alone (f a) s' := by rw [alone, alone, blk_bind_ok hms]
    rw [this]
    exact hR.trans _ _ _ h1 (hf a s')
  | error e s' =>
    rw [alone_error hms] at h1
    rwa [alone_error (blk_bind_error hms f)]

/-- A piece that reads the state first and then runs. -/
theorem Steps.get_bind {f : State → Blk β} (hf : ∀ s, R s (alone (f s) s)) :
    Steps R ((MonadState.get : Blk State) >>= f) := fun s => hf s

theorem Steps.ite {c : Prop} [Decidable c] {a b : Blk α} (ha : Steps R a) (hb : Steps R b) :
    Steps R (if c then a else b) := by
  split
  · exact ha
  · exact hb

end Sys2Proof.Machine
end

