-- ==== Sys2Proof/Laws/Memory.lean ====
section
/-! SUPPORT. Buffer memory as data: what a read gives after a write, that every write keeps the canonical form, and the same
for a run of bytes (20_memory.md R51, R54). -/
namespace Sys2Proof.Machine

theorem memGet_memCons (m : List Host.Cell) (a b : Nat) (v : Byte) (h : ∀ c ∈ m, a < c.1) :
    memGet (memCons a v m) b = if b = a then v else memGet m b := by
  unfold memCons
  by_cases hv : v = memDefault
  · by_cases hb : b = a
    · subst hb
      have : ∀ m : List Host.Cell, (∀ c ∈ m, b < c.1) → memGet m b = memDefault := by
        intro m
        induction m with
        | nil => intro _; rfl
        | cons c m ih =>
          intro h
          have hc : b < c.1 := h c (by simp)
          rw [memGet, if_neg (by omega)]
          exact ih fun d hd => h d (by simp [hd])
      simp [hv, this m h]
    · simp [hv, hb]
  · simp [hv, memGet]

theorem memWf_cons {a : Nat} {v : Byte} {m : List Host.Cell} :
    memWf ((a, v) :: m) = true ↔ v ≠ memDefault ∧ (∀ c ∈ m, a < c.1) ∧ memWf m = true := by
  simp [memWf, and_assoc]

theorem memWf_memCons {a : Nat} {m : List Host.Cell} (v : Byte) (h : ∀ c ∈ m, a < c.1) (hm : memWf m = true) :
    memWf (memCons a v m) = true := by
  unfold memCons
  split
  · exact hm
  · exact memWf_cons.2 ⟨‹_›, h, hm⟩

theorem mem_memCons {a : Nat} {v : Byte} {m : List Host.Cell} {c : Host.Cell} (h : c ∈ memCons a v m) :
    c = (a, v) ∨ c ∈ m := by
  unfold memCons at h
  split at h
  · exact .inr h
  · simpa using h

/-- The cells of a memory with one byte written are its own and the new one. -/
theorem mem_memPut {m : List Host.Cell} {a : Nat} {v : Byte} {c : Host.Cell} (h : c ∈ memPut m a v) :
    c = (a, v) ∨ c ∈ m := by
  induction m with
  | nil => exact mem_memCons h
  | cons d m ih =>
    obtain ⟨b, w⟩ := d
    unfold memPut at h
    split at h
    · exact mem_memCons h
    · split at h
      · rcases mem_memCons h with h | h
        · exact .inl h
        · exact .inr (by simp [h])
      · rcases List.mem_cons.1 h with rfl | h
        · exact .inr (by simp)
        · rcases ih h with h | h
          · exact .inl h
          · exact .inr (by simp [h])

/-- A write keeps the canonical form. -/
theorem memWf_memPut {m : List Host.Cell} (h : memWf m = true) (a : Nat) (v : Byte) : memWf (memPut m a v) = true := by
  induction m with
  | nil => exact memWf_memCons v (by simp) rfl
  | cons d m ih =>
    obtain ⟨b, w⟩ := d
    obtain ⟨hw, hb, hm⟩ := memWf_cons.1 h
    unfold memPut
    split
    · refine memWf_memCons v ?_ h
      intro c hc
      rcases List.mem_cons.1 hc with rfl | hc
      · assumption
      · have := hb c hc; omega
    · split
      · subst_vars; exact memWf_memCons v hb hm
      · refine memWf_cons.2 ⟨hw, ?_, ih hm⟩
        intro c hc
        rcases mem_memPut hc with rfl | hc
        · simp only; omega
        · exact hb c hc

/-- A read after a write of one byte. -/
theorem memGet_memPut {m : List Host.Cell} (h : memWf m = true) (a b : Nat) (v : Byte) :
    memGet (memPut m a v) b = if b = a then v else memGet m b := by
  induction m with
  | nil => exact memGet_memCons [] a b v (by simp)
  | cons d m ih =>
    obtain ⟨x, w⟩ := d
    obtain ⟨hw, hx, hm⟩ := memWf_cons.1 h
    unfold memPut
    split
    · refine memGet_memCons _ a b v ?_
      intro c hc
      rcases List.mem_cons.1 hc with rfl | hc
      · assumption
      · have := hx c hc; omega
    · split
      · rename_i hax
        rw [hax, memGet_memCons m x b v hx, memGet]
        split <;> rfl
      · rw [memGet, memGet, ih hm]
        by_cases hbx : b = x
        · subst hbx; simp; omega
        · simp [hbx]

theorem memWf_reset : memWf State.reset.mem = true := rfl

/-! ### A run of bytes -/

theorem memWf_storeBytes (w : Nat) (bs : List Byte) : ∀ (dest : Nat) {m : List Host.Cell},
    memWf m = true → memWf (storeBytes w dest bs m) = true := by
  induction bs with
  | nil => intro _ _ h; exact h
  | cons b bs ih => intro _ _ h; exact ih _ (memWf_memPut h _ _)

theorem mem_storeBytes {w : Nat} {bs : List Byte} : ∀ {dest : Nat} {m : List Host.Cell} {c : Host.Cell},
    c ∈ storeBytes w dest bs m → (∃ i, i < bs.length ∧ c.1 = wrap w (dest + i)) ∨ c ∈ m := by
  induction bs with
  | nil => intro _ _ _ h; exact .inr h
  | cons b bs ih =>
    intro dest m c h
    rcases ih h with ⟨i, hi, hc⟩ | h
    · exact .inl ⟨i + 1, by simp [hi], by rw [hc]; congr 1; omega⟩
    · rcases mem_memPut h with rfl | h
      · exact .inl ⟨0, by simp, by simp⟩
      · exact .inr h

/-- Outside the bytes stored to, memory reads as before. -/
theorem memGet_storeBytes_outside {w : Nat} {bs : List Byte} : ∀ {dest : Nat} {m : List Host.Cell},
    memWf m = true → ∀ {a : Nat}, ¬ InBuffer w dest bs.length a → memGet (storeBytes w dest bs m) a = memGet m a := by
  induction bs with
  | nil => intro _ _ _ _ _; rfl
  | cons b bs ih =>
    intro dest m hm a ha
    rw [storeBytes, ih (memWf_memPut hm _ _), memGet_memPut hm, if_neg]
    · intro h; exact ha ⟨0, by simp, by simpa using h⟩
    · rintro ⟨i, hi, h⟩
      exact ha ⟨i + 1, by simp [hi], by rw [h]; congr 1; omega⟩

/-- Where the addresses of the run are different, each byte reads back (R52, R57). -/
theorem memGet_storeBytes_at {w : Nat} {bs : List Byte} : ∀ {dest : Nat} {m : List Host.Cell}, memWf m = true →
    bs.length ≤ 2 ^ w → ∀ {i : Nat} (hi : i < bs.length),
    memGet (storeBytes w dest bs m) (wrap w (dest + i)) = bs[i] := by
  induction bs with
  | nil => intro _ _ _ _ i hi; simp at hi
  | cons b bs ih =>
    intro dest m hm hl i hi
    have hlen : bs.length < 2 ^ w := by simpa using hl
    cases i with
    | zero =>
      rw [storeBytes, memGet_storeBytes_outside (memWf_memPut hm _ _), memGet_memPut hm]
      · simp
      · rintro ⟨j, hj, h⟩
        simp only [wrap, Nat.add_zero] at h
        have h1 : (dest + (1 + j)) % 2 ^ w = (dest + 0) % 2 ^ w := by
          rw [← Nat.add_assoc, ← h]; rfl
        have h2 := Nat.ModEq.add_left_cancel' dest h1
        have h3 : (1 + j) % 2 ^ w = 0 % 2 ^ w := h2
        rw [Nat.mod_eq_of_lt (by omega)] at h3
        simp at h3
    | succ i =>
      have := ih (dest := dest + 1) (memWf_memPut hm (wrap w dest) b) (by omega)
        (i := i) (by simpa using hi)
      rw [storeBytes, show dest + (i + 1) = dest + 1 + i by omega, this]
      rfl

theorem loadBytes_length (w : Nat) (m : List Host.Cell) (n : Nat) : ∀ src, (loadBytes w m src n).length = n := by
  induction n with
  | zero => intro _; rfl
  | succ n ih => intro _; simp [loadBytes, ih]

end Sys2Proof.Machine
end

