-- ==== Sys2Proof/Laws/Moves.lean ====
section
/-! SUPPORT. Everything the sequencer can do, said once: `Move` lists the kinds of change one statement, event or arrival makes,
`Path L` is a chain of moves of the kinds in `L`, and each primitive and each body is such a chain from whatever state it runs
on, whether it stops or not. A claim that every move of a body keeps holds of the body by induction on the chain. -/
namespace Sys2Proof.Machine

/-- The kinds of move. -/
inductive Label where
  | seq | counters | exchange | select | deselect | lastR1 | ext | dresp | csd | memWrite | memRead | pin | family | initOk
  | capkb | blksize | outside | reset
deriving DecidableEq, Repr

/-- One move of a kind, from a state to a state. -/
def Move : Label → State → State → Prop
  | .seq, s, t => ∃ p, t = { s with seq := p }
  | .counters, s, t => ∃ a b c d, t = { s with tries := a, sector := b, byteIdx := c, res := d }
  | .exchange, s, t => ∃ o i c, t = { s with card := c, trace := .xchg o i :: s.trace, xchgs := s.xchgs + 1 }
  | .select, s, t => t = { s with cs := true, trace := .select :: s.trace }
  | .deselect, s, t => t = { s with cs := false, trace := .deselect :: s.trace }
  | .lastR1, s, t => ∃ r, t = { s with lastR1 := r }
  | .ext, s, t => ∃ e v, t = { s with ext := e, ext32 := v }
  | .dresp, s, t => ∃ d, t = { s with lastDresp := drespMask d }
  | .csd, s, t => ∃ v, t = { s with csdShadow := v }
  | .memWrite, s, t => ∃ a v x w p n o, t = { s with
      picks := p, pickCount := n, blkOld := (bufAddr s a, x) :: s.blkOld, reqOld := o, mem := memPut s.mem (bufAddr s a) w,
      trace := .memWrite (bufAddr s a) v :: s.trace } ∧
      (w = v ∧ x = memGet s.mem (bufAddr s a) ∧ p = s.picks ∧ n = s.pickCount ∧ o = s.reqOld ∨
        oldValues (bufAddr s a) s.reqOld ≠ [] ∧ (w = v ∨ w = memGet s.mem (bufAddr s a)))
  | .memRead, s, t => ∃ a v p n, t = { s with
      picks := p, pickCount := n, trace := .memRead (bufAddr s a) v :: s.trace }
  | .pin, s, t => ∃ p n b, t = { s with pins := p, pinReads := n, present := b }
  | .family, s, t => ∃ f, t = { s with family := f }
  | .initOk, s, t => ∃ b, t = { s with initOk := b }
  | .capkb, s, t => t = { s with capkb := capacityKB s.csdShadow }
  | .blksize, s, t => t = { s with blksize := 0x00000200#32 }
  | .outside, s, t => ∃ a0 a1 bb rd p n i o k m, t = { s with
      arg0 := a0, arg1 := a1, bufbase := bb, rdata := rd, picks := p, pickCount := n, inbox := i, reqOld := o, blkOld := k,
      mem := m } ∧
      (m = s.mem ∨ ∃ a v, m = memPut s.mem (bufAddr s a) v)
  | .reset, s, t => ∃ i, t = { resetBlock s with inbox := i }

/-- A chain of moves of the kinds in `L`. -/
inductive Path (L : List Label) : State → State → Prop where
  | refl (s : State) : Path L s s
  | step {s t u : State} (l : Label) (hl : l ∈ L) (h : Move l s t) (p : Path L t u) : Path L s u

theorem Path.trans {L : List Label} {s t u : State} (h1 : Path L s t) (h2 : Path L t u) : Path L s u := by
  induction h1 with
  | refl => exact h2
  | step l hl h _ ih => exact .step l hl h (ih h2)

theorem Path.one {L : List Label} {s t : State} (l : Label) (hl : l ∈ L) (h : Move l s t) : Path L s t :=
  .step l hl h (.refl t)

theorem Path.mono {L K : List Label} (hLK : L ⊆ K) {s t : State} (h : Path L s t) : Path K s t := by
  induction h with
  | refl => exact .refl _
  | step l hl h _ ih => exact .step l (hLK hl) h ih

theorem Path.chain (L : List Label) : Chain (Path L) := ⟨.refl, fun _ _ _ => .trans⟩

/-- What holds at the start of a chain and every move of its kinds keeps, holds at its end. -/
theorem Path.keeps {L : List Label} {P : State → Prop} (hP : ∀ l ∈ L, ∀ s t, Move l s t → P s → P t) {s t : State}
    (h : Path L s t) : P s → P t := by
  induction h with
  | refl => exact id
  | step l hl h _ ih => exact fun hs => ih (hP l hl _ _ h hs)

/-- A piece whose every run is a chain of moves of the kinds in `L`. -/
abbrev Walks (L : List Label) {α : Type} (m : Blk α) : Prop := Steps (Path L) m

variable {L : List Label} {α β : Type}

theorem Walks.pure (a : α) : Walks L (pure a : Blk α) := Steps.pure (Path.chain L) a

theorem Walks.raise (c : Cause) : Walks L (raise c) := Steps.raise (Path.chain L) c

theorem Walks.bind {m : Blk α} {f : α → Blk β} (hm : Walks L m) (hf : ∀ a, Walks L (f a)) : Walks L (m >>= f) :=
  Steps.bind (Path.chain L) hm hf

theorem Walks.get : Walks L (MonadState.get : Blk State) := Steps.get (Path.chain L)

theorem Walks.ite {c : Prop} [Decidable c] {a b : Blk α} (ha : Walks L a) (hb : Walks L b) :
    Walks L (if c then a else b) := Steps.ite ha hb

theorem Walks.mono {K : List Label} (hLK : L ⊆ K) {m : Blk α} (h : Walks L m) : Walks K m := fun s => (h s).mono hLK

/-- A change of the state that is one move. -/
theorem Walks.modify {f : State → State} (l : Label) (hl : l ∈ L) (h : ∀ s, Move l s (f s)) :
    Walks L (modify f : Blk PUnit) := fun s => Path.one l hl (h s)

/-! ### Arrivals -/

theorem racePick_snd (s : State) (cur : Byte) (olds : List Byte) :
    ∃ p n, (racePick s cur olds).2 = { s with picks := p, pickCount := n } := by
  unfold racePick
  split
  · exact ⟨s.picks, s.pickCount, rfl⟩
  · exact ⟨_, _, rfl⟩

/-- A change of the inbox alone is a move of the outside. -/
theorem move_inbox (s : State) (i : List Arrival) : Move .outside s { s with inbox := i } :=
  ⟨s.arg0, s.arg1, s.bufbase, s.rdata, s.picks, s.pickCount, i, s.reqOld, s.blkOld, s.mem, rfl, .inl rfl⟩

theorem move_requesterRead (s : State) (a : Nat) : Move .outside s (requesterRead s a) := by
  unfold requesterRead
  obtain ⟨p, n, e⟩ := racePick_snd s (memGet s.mem (bufAddr s a)) (if s.busy then oldValues (bufAddr s a) s.blkOld else [])
  simp only [e]
  exact ⟨s.arg0, s.arg1, s.bufbase, _, p, n, s.inbox, s.reqOld, s.blkOld, s.mem, rfl, .inl rfl⟩

/-- A raced write leaves one of the two values, and takes at most one choice. -/
theorem raceWrite_cases (s : State) (cur v : Byte) (raced : Bool) : ∃ w p n,
    raceWrite s cur v raced = (w, { s with picks := p, pickCount := n }) ∧ (w = v ∨ w = cur) ∧
    (raced = false → w = v ∧ p = s.picks ∧ n = s.pickCount) := by
  cases raced with
  | false => exact ⟨v, s.picks, s.pickCount, rfl, .inl rfl, fun _ => ⟨rfl, rfl, rfl⟩⟩
  | true =>
    refine ⟨_, _, _, rfl, ?_, fun h => by cases h⟩
    simp only [if_true, List.length_singleton]
    generalize hk : (match s.picks with | [] => Config.raceChoice s.pickCount | p :: _ => p) % (1 + 1) = k
    have : k < 2 := by omega
    match k, this with
    | 0, _ => exact .inl rfl
    | 1, _ => exact .inr rfl

theorem move_requesterWrite (s : State) (a : Nat) (v : Byte) : Move .outside s (requesterWrite s a v) := by
  unfold requesterWrite
  obtain ⟨w, p, n, e, -, -⟩ := raceWrite_cases s (memGet s.mem (bufAddr s a)) v
    (s.busy && !(oldValues (bufAddr s a) s.blkOld).isEmpty)
  simp only [e]
  exact ⟨s.arg0, s.arg1, s.bufbase, s.rdata, p, n, s.inbox, _, _, _, rfl, .inr ⟨a, w, rfl⟩⟩

theorem move_accessReg (s : State) (a : Access) : Move .outside s (accessReg s a) := by
  unfold accessReg
  split
  · unfold writeReg
    split <;> exact ⟨_, _, _, s.rdata, s.picks, s.pickCount, s.inbox, s.reqOld, s.blkOld, s.mem, rfl, .inl rfl⟩
  · exact ⟨s.arg0, s.arg1, s.bufbase, _, s.picks, s.pickCount, s.inbox, s.reqOld, s.blkOld, s.mem, rfl, .inl rfl⟩

/-- What arrives is served by moves of the outside, and at most one reset. -/
theorem serve_walks (h1 : .outside ∈ L) (h2 : .reset ∈ L) (l : List Arrival) : Walks L (serve l : Blk Unit) := by
  have out : ∀ {s t : State}, Move .outside s t → Path L s t := fun h => .one .outside h1 h
  induction l with
  | nil => intro s; exact out (move_inbox s [])
  | cons a rest ih =>
    intro s
    obtain ⟨wait, input⟩ := a
    cases wait with
    | succ n => exact out (move_inbox s _)
    | zero =>
      cases input with
      | reset => exact .one .reset h2 ⟨rest, rfl⟩
      | bufRead a => exact (out (move_requesterRead s a)).trans (ih _)
      | bufWrite a v => exact (out (move_requesterWrite s a v)).trans (ih _)
      | access acc =>
        by_cases hi : acc.inInterface = false
        · have : serve (⟨0, .access acc⟩ :: rest) s = .ok () { s with inbox := ⟨0, .access acc⟩ :: rest } := by
            simp [serve, hi]
          rw [alone_ok this]; exact out (move_inbox s _)
        · cases hr : acc.request? with
          | none =>
            have : serve (⟨0, .access acc⟩ :: rest) s = serve rest (accessReg s acc) := by simp [serve, hi, hr]
            rw [alone_congr (m' := serve rest) this]; exact (out (move_accessReg s acc)).trans (ih _)
          | some w =>
            by_cases hb : s.busy = true
            · have : serve (⟨0, .access acc⟩ :: rest) s = serve rest s := by simp [serve, hi, hr, hb]
              rw [alone_congr (m' := serve rest) this]; exact ih s
            · have : serve (⟨0, .access acc⟩ :: rest) s = .ok () { s with inbox := ⟨0, .access acc⟩ :: rest } := by
                simp [serve, hi, hr, hb]
              rw [alone_ok this]; exact out (move_inbox s _)

/-- The labels every piece needs: what arrives from outside, and SEQ. -/
def base : List Label := [.outside, .reset, .seq]

theorem sync_walks (h1 : .outside ∈ L) (h2 : .reset ∈ L) : Walks L sync := fun s => serve_walks h1 h2 s.inbox s

end Sys2Proof.Machine
end

