-- ==== Sys2Proof/Laws/Quiet.lean ====
section
/-! SUPPORT. What each primitive does when nothing arrives from outside and the card's answers are known: one lemma per
primitive, exact, so that a caller never unfolds it. -/
namespace Sys2Proof.Machine

/-! ### Traffic -/

theorem heard_nil (s : State) : heard s [] [] = s := by
  cases s; rfl

theorem heard_append (s : State) {o1 i1 : List Byte} (h : o1.length = i1.length) (o2 i2 : List Byte) :
    heard (heard s o1 i1) o2 i2 = heard s (o1 ++ o2) (i1 ++ i2) := by
  simp [heard, xchgEvents, List.zipWith_append h, Nat.add_assoc]

theorem heard_withTries (s : State) (n : Nat) (o i : List Byte) :
    heard (withTries s n) o i = withTries (heard s o i) n := rfl

theorem withTries_withTries (s : State) (n m : Nat) : withTries (withTries s n) m = withTries s m := rfl

theorem withTries_self (s : State) : withTries s s.tries = s := by cases s; rfl

@[simp] theorem setTries_apply (n : Nat) (s : State) : setTries n s = .ok () (withTries s n) := rfl

/-- One more filler read before others. -/
theorem heard_cons (s : State) (o b : Byte) (os bs : List Byte) :
    heard (heard s [o] [b]) os bs = heard s (o :: os) (b :: bs) := by
  rw [heard_append s (o1 := [o]) (i1 := [b]) (by simp)]; rfl

/-! ### Events -/

theorem sync_quiet {s : State} (q : Quiet s) : sync s = .ok () s := by
  cases s; simp only [Quiet] at q; subst q; rfl

theorem at_quiet {s : State} (q : Quiet s) (p : Seq) : at_ p s = .ok () { s with seq := p } := by
  rw [at_, moveSeq, blk_bind, blk_modify]; exact sync_quiet (s := { s with seq := p }) q

theorem part_quiet {s : State} (q : Quiet s) (n k : Nat) : part n k s = .ok () { s with seq := .body n k } := at_quiet q _

theorem line_quiet {s : State} (q : Quiet s) (n : Nat) : line n s = .ok () { s with seq := .body n 1 } := at_quiet q _

theorem select_quiet {s : State} (q : Quiet s) :
    select s = .ok () { s with cs := true, trace := .select :: s.trace } := by
  rw [select, blk_bind_ok (sync_quiet q), blk_bind, blk_modify]; rfl

/-- One exchange, whatever the card answers. -/
theorem xchg_any {s : State} (q : Quiet s) (o : Byte) :
    xchg o s = .ok (cardAnswer s)
      { s with card := s.card.tail, trace := .xchg o (cardAnswer s) :: s.trace, xchgs := s.xchgs + 1 } := by
  rw [xchg, blk_bind_ok (sync_quiet q), blk_bind, blk_get]; rfl

/-- One exchange, the card's answer being the next of its stream. -/
theorem xchg_quiet {s : State} (q : Quiet s) {b : Byte} {rest : List Byte} (hc : s.card = b :: rest) (o : Byte) :
    xchg o s = .ok b (heard s [o] [b]) := by
  rw [xchg_any q, cardAnswer, hc]
  simp [heard, xchgEvents, hc]

theorem receive_quiet {s : State} (q : Quiet s) (i : Byte) :
    receive i s = .ok () { s with trace := .xchg filler i :: s.trace, xchgs := s.xchgs + 1 } := by
  rw [receive, blk_bind_ok (sync_quiet q)]; rfl

theorem sendBytes_quiet {outs : List Byte} : ∀ {s : State} (_ : Quiet s) {ins rest : List Byte}
    (_ : s.card = ins ++ rest) (_ : outs.length = ins.length), sendBytes outs s = .ok () (heard s outs ins) := by
  induction outs with
  | nil =>
    intro s q ins rest hc hl
    obtain rfl : ins = [] := by simpa using hl.symm
    rw [heard_nil]; rfl
  | cons o outs ih =>
    intro s q ins rest hc hl
    cases ins with
    | nil => simp at hl
    | cons b ins =>
      rw [sendBytes, blk_bind_ok (xchg_quiet q hc o),
        ih (s := heard s [o] [b]) q (ins := ins) (rest := rest) (by simp [hc]) (by simpa using hl), heard_cons]

theorem fillers_quiet {n : Nat} : ∀ {s : State} (_ : Quiet s) {ins rest : List Byte}
    (_ : s.card = ins ++ rest) (_ : ins.length = n),
    fillers n s = .ok () (heard s (List.replicate n filler) ins) := by
  induction n with
  | zero =>
    intro s q ins rest hc hl
    obtain rfl : ins = [] := by simpa using hl
    rw [List.replicate_zero, heard_nil]; rfl
  | succ n ih =>
    intro s q ins rest hc hl
    cases ins with
    | nil => simp at hl
    | cons b ins =>
      rw [fillers, blk_bind_ok (xchg_quiet q hc filler),
        ih (s := heard s [filler] [b]) q (ins := ins) (rest := rest) (by simp [hc]) (by simpa using hl), heard_cons]
      rfl

/-! ### Polls and waits -/

/-- A response on a poll the bound allows (R102, R108). -/
theorem pollResponse_quiet {polls : List Byte} : ∀ {n : Nat} {s : State} (_ : Quiet s) {r : Byte} {rest : List Byte}
    (_ : s.card = polls ++ r :: rest) (_ : polls.length < n) (_ : ∀ b ∈ polls, responsePresent b = false)
    (_ : responsePresent r = true) (last : Byte),
    pollResponse n last s = .ok r (withTries (heard s (List.replicate (polls.length + 1) filler) (polls ++ [r]))
      (n - (polls.length + 1))) := by
  induction polls with
  | nil =>
    intro n s q r rest hc hn hp hr last
    cases n with
    | zero => simp at hn
    | succ n => rw [pollResponse, blk_bind_ok (xchg_quiet q hc filler), blk_bind, setTries_apply]; simp [hr]
  | cons b polls ih =>
    intro n s q r rest hc hn hp hr last
    cases n with
    | zero => simp at hn
    | succ n =>
      have hb : responsePresent b = false := hp b (by simp)
      rw [pollResponse, blk_bind_ok (xchg_quiet q hc filler), blk_bind, setTries_apply]
      simp only [hb, Bool.false_eq_true, if_false]
      rw [ih (n := n) (s := withTries (heard s [filler] [b]) n) q (r := r) (rest := rest)
        (by simp [hc]) (by simpa using hn) (fun x hx => hp x (by simp [hx])) hr b,
        heard_withTries, withTries_withTries, heard_cons, List.length_cons, Nat.add_sub_add_right]
      rfl

/-- No response within the bound: exactly that many polls, and the last byte is the answer (R104). -/
theorem pollResponse_exhausted {polls : List Byte} : ∀ {s : State} (_ : Quiet s) {rest : List Byte}
    (_ : s.card = polls ++ rest) (_ : ∀ b ∈ polls, responsePresent b = false) (last : Byte),
    pollResponse polls.length last s = .ok (polls.getLastD last)
      (withTries (heard s (List.replicate polls.length filler) polls) (if polls.isEmpty then s.tries else 0)) := by
  induction polls with
  | nil => intro s q rest hc hp last; rw [List.length_nil, List.replicate_zero, heard_nil]; rfl
  | cons b polls ih =>
    intro s q rest hc hp last
    have hb : responsePresent b = false := hp b (by simp)
    rw [List.length_cons, pollResponse, blk_bind_ok (xchg_quiet q hc filler), blk_bind, setTries_apply]
    simp only [hb, Bool.false_eq_true, if_false]
    rw [ih (s := withTries (heard s [filler] [b]) polls.length) q (rest := rest)
      (by simp [hc]) (fun x hx => hp x (by simp [hx])) b, heard_withTries, withTries_withTries, heard_cons]
    cases polls <;> rfl

/-- The byte that meets the test on a read the bound allows: exactly that many reads (R120). -/
theorem waitUntil_quiet {p : Byte → Bool} {busy : List Byte} : ∀ {n : Nat} {s : State} (_ : Quiet s) {b : Byte}
    {rest : List Byte} (_ : s.card = busy ++ b :: rest) (_ : busy.length < n) (_ : ∀ x ∈ busy, p x = false)
    (_ : p b = true) (last : Byte),
    waitUntil p n last s = .ok (true, b) (withTries (heard s (List.replicate (busy.length + 1) filler) (busy ++ [b]))
      (n - (busy.length + 1))) := by
  induction busy with
  | nil =>
    intro n s q b rest hc hn hp hb last
    cases n with
    | zero => simp at hn
    | succ n => rw [waitUntil, blk_bind_ok (xchg_quiet q hc filler), blk_bind, setTries_apply]; simp [hb]
  | cons x busy ih =>
    intro n s q b rest hc hn hp hb last
    cases n with
    | zero => simp at hn
    | succ n =>
      have hx : p x = false := hp x (by simp)
      rw [waitUntil, blk_bind_ok (xchg_quiet q hc filler), blk_bind, setTries_apply]
      simp only [hx, Bool.false_eq_true, if_false]
      rw [ih (n := n) (s := withTries (heard s [filler] [x]) n) q (b := b) (rest := rest)
        (by simp [hc]) (by simpa using hn) (fun y hy => hp y (by simp [hy])) hb x,
        heard_withTries, withTries_withTries, heard_cons, List.length_cons, Nat.add_sub_add_right]
      rfl

/-- No byte that meets the test within the bound: exactly that many reads, and failure (R120). -/
theorem waitUntil_exhausted {p : Byte → Bool} {busy : List Byte} : ∀ {s : State} (_ : Quiet s) {rest : List Byte}
    (_ : s.card = busy ++ rest) (_ : ∀ x ∈ busy, p x = false) (last : Byte),
    waitUntil p busy.length last s = .ok (false, busy.getLastD last)
      (withTries (heard s (List.replicate busy.length filler) busy) (if busy.isEmpty then s.tries else 0)) := by
  induction busy with
  | nil => intro s q rest hc hp last; rw [List.length_nil, List.replicate_zero, heard_nil]; rfl
  | cons x busy ih =>
    intro s q rest hc hp last
    have hx : p x = false := hp x (by simp)
    rw [List.length_cons, waitUntil, blk_bind_ok (xchg_quiet q hc filler), blk_bind, setTries_apply]
    simp only [hx, Bool.false_eq_true, if_false]
    rw [ih (s := withTries (heard s [filler] [x]) busy.length) q (rest := rest)
      (by simp [hc]) (fun y hy => hp y (by simp [hy])) x, heard_withTries, withTries_withTries, heard_cons]
    cases busy <;> rfl

end Sys2Proof.Machine
end

