-- ==== Sys2Proof/Laws/Engine.lean ====
section
/-! SUPPORT. What the command engine and the waits do when nothing arrives from outside and the card's answers are known
(40_command_engine.md R102 to R106, 41_wait_and_data.md R120 to R124). -/
namespace Sys2Proof.Machine

theorem frame_length (idx : Byte) (arg : Word) (crc : Byte) : (frame idx arg crc).length = 6 := rfl

/-! ### Commands -/

/-- The last step of a command: LAST_R1 takes the response. -/
theorem takeR1_apply (r : Byte) (s : State) : takeR1 r s = .ok () { s with lastR1 := r } := rfl

/-- The polls of a command, once its frame (and stuff byte) is out. -/
theorem pollAndTake {s : State} {n : Nat} {r : Byte} {s' : State} (h : pollResponse n filler (withTries s n) = .ok r s') :
    (do setTries n; let r ← pollResponse n filler; takeR1 r; pure r : Blk Byte) s = .ok r { s' with lastR1 := r } := by
  rw [blk_bind_ok (setTries_apply n s), blk_bind_ok h, blk_bind_ok (takeR1_apply r s')]; rfl

/-- The frame of a command, and the stuff byte of CMD12 (R102, R103), and what follows. -/
theorem sendFrame_quiet {s : State} (q : Quiet s) {idx : Byte} {arg : Word} {crc : Byte} {junk rest : List Byte}
    (hc : s.card = junk ++ rest) (hl : junk.length = if idx = 12#8 then 7 else 6) {α : Type} (f : Unit → Blk α) :
    (sendBytes (frame idx arg crc) >>= fun _ => stuffByte idx >>= f) s
      = f () (heard s (frame idx arg crc ++ List.replicate (junk.length - 6) filler) junk) := by
  by_cases h12 : idx = 12#8
  · simp only [h12, if_true] at hl
    have hs : junk = junk.take 6 ++ junk.drop 6 := (List.take_append_drop 6 junk).symm
    have h1 : (junk.take 6).length = 6 := by simp [hl]
    have h2 : (junk.drop 6).length = 1 := by simp [hl]
    have hc' : s.card = junk.take 6 ++ (junk.drop 6 ++ rest) := by rw [← List.append_assoc, ← hs, hc]
    have hst : stuffByte idx = fillers 1 := by simp [stuffByte, h12]
    rw [blk_bind_ok (sendBytes_quiet q hc' (by simp [frame_length, h1])), hst,
      blk_bind_ok (fillers_quiet (s := heard s (frame idx arg crc) (junk.take 6)) q (rest := rest)
        (by simp only [heard_card, hc', List.drop_left]) h2),
      heard_append _ (by simp [frame_length, h1]), ← hs, hl]
  · simp only [h12, if_false] at hl
    have hst : stuffByte idx = pure () := by simp [stuffByte, h12]
    rw [blk_bind_ok (sendBytes_quiet q hc (by simp [frame_length, hl])), hst, blk_bind_ok (blk_pure () _), hl]
    simp

/-- A command the card answers within the bound (R102, R103, R108). -/
theorem sendCommand_present {s : State} (q : Quiet s) {idx : Byte} {arg : Word} {crc r : Byte}
    {junk polls rest : List Byte} (hj : junk.length = if idx = 12#8 then 7 else 6)
    (hp : polls.length < s.cfg.cmdRespTries) (hb : ∀ b ∈ polls, responsePresent b = false)
    (hr : responsePresent r = true) (hc : s.card = junk ++ polls ++ [r] ++ rest) :
    sendCommand idx arg crc s = .ok r (answered s idx arg crc r (junk ++ polls ++ [r])) := by
  have hc' : s.card = junk ++ (polls ++ r :: rest) := by simpa using hc
  rw [sendCommand, sendFrame_quiet q hc' hj, blk_bind, blk_get]
  have h6 : 6 ≤ junk.length := by rw [hj]; split <;> decide
  have hpoll := pollResponse_quiet (polls := polls) (n := s.cfg.cmdRespTries) (r := r) (rest := rest)
    (s := withTries (heard s (frame idx arg crc ++ List.replicate (junk.length - 6) filler) junk) s.cfg.cmdRespTries) q
    (by simp [hc']) hp hb hr filler
  refine (pollAndTake hpoll).trans ?_
  rw [heard_withTries, withTries_withTries, heard_append _ (by simp [frame_length]; omega)]
  have e1 : s.cfg.cmdRespTries - (polls.length + 1) =
      s.cfg.cmdRespTries - ((junk ++ polls ++ [r]).length - if idx = 12#8 then 7 else 6) := by
    rw [← hj]; simp
  have e2 : frame idx arg crc ++ List.replicate (junk.length - 6) filler ++ List.replicate (polls.length + 1) filler =
      frame idx arg crc ++ List.replicate ((junk ++ polls ++ [r]).length - 6) filler := by
    rw [List.append_assoc, List.replicate_append_replicate]; congr 2; simp; omega
  rw [e1, e2, ← List.append_assoc]; rfl

/-- A command no poll of which has bit 7 = 0: exactly as many polls as the bound, and the last byte stands (R104). -/
theorem sendCommand_exhausted {s : State} (q : Quiet s) {idx : Byte} {arg : Word} {crc : Byte}
    {junk polls rest : List Byte} (hj : junk.length = if idx = 12#8 then 7 else 6)
    (hp : polls.length = s.cfg.cmdRespTries) (hb : ∀ b ∈ polls, responsePresent b = false)
    (hc : s.card = junk ++ polls ++ rest) :
    sendCommand idx arg crc s =
      .ok (polls.getLastD filler) (answered s idx arg crc (polls.getLastD filler) (junk ++ polls)) := by
  have hc' : s.card = junk ++ (polls ++ rest) := by simpa using hc
  rw [sendCommand, sendFrame_quiet q hc' hj, blk_bind, blk_get]
  have h6 : 6 ≤ junk.length := by rw [hj]; split <;> decide
  have hpoll := pollResponse_exhausted (polls := polls) (rest := rest)
    (s := withTries (heard s (frame idx arg crc ++ List.replicate (junk.length - 6) filler) junk) s.cfg.cmdRespTries) q
    (by simp [hc']) hb filler
  simp only [heard_cfg]
  rw [← hp] at hpoll ⊢
  refine (pollAndTake hpoll).trans ?_
  rw [heard_withTries, withTries_withTries, heard_append _ (by simp [frame_length]; omega)]
  have e1 : (if polls.isEmpty then (withTries (heard s (frame idx arg crc ++ List.replicate (junk.length - 6) filler) junk)
        polls.length).tries else 0) = s.cfg.cmdRespTries - ((junk ++ polls).length - if idx = 12#8 then 7 else 6) := by
    rw [← hj, ← hp]; cases polls <;> simp
  have e2 : frame idx arg crc ++ List.replicate (junk.length - 6) filler ++ List.replicate polls.length filler =
      frame idx arg crc ++ List.replicate ((junk ++ polls).length - 6) filler := by
    rw [List.append_assoc, List.replicate_append_replicate]; congr 2; simp; omega
  rw [e1, e2]; rfl

/-- A command and what SendCommand answers: a response within the bound, or the last byte of exhausted polls (R102 to R104,
R108). -/
theorem sendCommand_quiet {s : State} (q : Quiet s) {idx : Byte} {arg : Word} {crc r : Byte} {l rest : List Byte}
    (h : CommandReply s idx r l) (hc : s.card = l ++ rest) :
    sendCommand idx arg crc s = .ok r (answered s idx arg crc r l) := by
  obtain ⟨junk, polls, hj, hp, hb, hr, rfl⟩ := h
  by_cases hpr : responsePresent r = true
  · exact sendCommand_present q hj hp hb hpr hc
  · have he := sendCommand_exhausted q (idx := idx) (arg := arg) (crc := crc) (junk := junk) (polls := polls ++ [r])
      (rest := rest) hj (by simpa using hr.resolve_left hpr)
      (fun b h => by
        rcases List.mem_append.1 h with h | h
        · exact hb b h
        · rw [List.mem_singleton.1 h]; simpa using hpr)
      (by simpa using hc)
    rw [← List.append_assoc] at he
    simpa using he

@[simp] theorem answered_inbox (s : State) (idx : Byte) (arg : Word) (crc r : Byte) (l : List Byte) :
    (answered s idx arg crc r l).inbox = s.inbox := rfl

@[simp] theorem answered_card (s : State) (idx : Byte) (arg : Word) (crc r : Byte) (l : List Byte) :
    (answered s idx arg crc r l).card = s.card.drop l.length := rfl

@[simp] theorem answered_cfg (s : State) (idx : Byte) (arg : Word) (crc r : Byte) (l : List Byte) :
    (answered s idx arg crc r l).cfg = s.cfg := rfl

@[simp] theorem polled_inbox (s : State) (bound : Nat) (l : List Byte) : (polled s bound l).inbox = s.inbox := rfl

@[simp] theorem polled_card (s : State) (bound : Nat) (l : List Byte) :
    (polled s bound l).card = s.card.drop l.length := rfl

@[simp] theorem polled_cfg (s : State) (bound : Nat) (l : List Byte) : (polled s bound l).cfg = s.cfg := rfl

/-- Whether a command is accepted: its response is 0x00 (R78, R171). -/
theorem isAccepted_quiet {s : State} (q : Quiet s) {idx : Byte} {arg : Word} {crc r : Byte} {l rest : List Byte}
    (h : CommandReply s idx r l) (hc : s.card = l ++ rest) :
    isAccepted (sendCommand idx arg crc) s = .ok (accepted r) (answered s idx arg crc r l) := by
  rw [isAccepted, blk_bind_ok (sendCommand_quiet q h hc)]; rfl

/-- The application command, both commands accepted (R106). -/
theorem appCommand_quiet {s : State} (q : Quiet s) {idx : Byte} {arg : Word} {l1 l2 rest : List Byte}
    (h1 : CommandReply s 55#8 0x00#8 l1) (h2 : CommandReply s idx 0x00#8 l2) (hc : s.card = l1 ++ l2 ++ rest) :
    appCommand idx arg s = .ok true
      (answered (answered s 55#8 0x00000000#32 0x00#8 0x00#8 l1) idx arg 0x00#8 0x00#8 l2) := by
  have hc' : s.card = l1 ++ (l2 ++ rest) := by simpa using hc
  rw [appCommand, blk_bind_ok (sendCommand_quiet q h1 hc')]
  simp only [show accepted 0x00#8 = true from rfl, if_true]
  rw [blk_bind_ok (sendCommand_quiet (s := answered s 55#8 0x00000000#32 0x00#8 0x00#8 l1) q
    (idx := idx) (r := 0x00#8) (l := l2) (rest := rest) h2 (by simp [hc']))]
  rfl

/-- The prefix refused: the command itself is not framed (R106). -/
theorem appCommand_refused {s : State} (q : Quiet s) {idx : Byte} {arg : Word} {r : Byte} {l rest : List Byte}
    (h : CommandReply s 55#8 r l) (hr : r ≠ 0x00#8) (hc : s.card = l ++ rest) :
    appCommand idx arg s = .ok false (answered s 55#8 0x00000000#32 0x00#8 r l) := by
  rw [appCommand, blk_bind_ok (sendCommand_quiet q h hc)]
  simp [accepted, hr]

/-! ### Extended responses -/

/-- The four bytes after an R3 or R7 response, the first received the most significant (R105). -/
theorem getExtendedResponse_quiet {s : State} (q : Quiet s) {b0 b1 b2 b3 : Byte} {rest : List Byte}
    (hc : s.card = [b0, b1, b2, b3] ++ rest) :
    getExtendedResponse s = .ok (wordOfBytes b0 b1 b2 b3)
      { heard s (List.replicate 4 filler) [b0, b1, b2, b3] with
        ext := #v[b0, b1, b2, b3], ext32 := wordOfBytes b0 b1 b2 b3 } := by
  cases s
  simp only [Quiet] at q
  simp only [List.cons_append, List.nil_append] at hc
  subst q; subst hc
  rename_i e _ _ _ _ _ _ _ _ _ _ _ _ _ _ _ _ _ _
  obtain ⟨a, ha⟩ := e
  obtain ⟨l⟩ := a
  match l, ha with
  | [_, _, _, _], _ => rfl

/-! ### Waits -/

/-- A wait that succeeds (R120). -/
theorem waitFor_quiet {s : State} (q : Quiet s) {p : Byte → Bool} {n : Nat} {b : Byte} {l rest : List Byte}
    (h : WaitReply p n b l) (hc : s.card = l ++ rest) : waitFor p n s = .ok (true, b) (polled s n l) := by
  obtain ⟨busy, hn, hx, hb, rfl⟩ := h
  rw [waitFor, blk_bind_ok (setTries_apply n s),
    waitUntil_quiet (s := withTries s n) q (busy := busy) (b := b) (rest := rest) (by simpa using hc) hn hx hb filler,
    heard_withTries, withTries_withTries]
  simp [polled]

/-- A wait that fails: exactly as many reads as the bound (R120). -/
theorem waitFor_exhausted {s : State} (q : Quiet s) {p : Byte → Bool} {busy rest : List Byte}
    (hx : ∀ x ∈ busy, p x = false) (hc : s.card = busy ++ rest) :
    waitFor p busy.length s = .ok (false, busy.getLastD filler) (polled s busy.length busy) := by
  rw [waitFor, blk_bind_ok (setTries_apply _ s),
    waitUntil_exhausted (s := withTries s busy.length) q (rest := rest) hc hx filler, heard_withTries,
    withTries_withTries]
  cases busy <;> simp [polled]

theorem waitIdle_quiet {s : State} (q : Quiet s) {l rest : List Byte} (h : IdleReply s l) (hc : s.card = l ++ rest) :
    waitIdle s = .ok true (polled s s.cfg.idleWaitTries l) := by
  rw [waitIdle, blk_bind, blk_get]; simp only []; rw [blk_bind_ok (waitFor_quiet q h hc)]; rfl

theorem waitIdle_exhausted {s : State} (q : Quiet s) {busy rest : List Byte} (hn : busy.length = s.cfg.idleWaitTries)
    (hx : ∀ x ∈ busy, busIdle x = false) (hc : s.card = busy ++ rest) :
    waitIdle s = .ok false (polled s s.cfg.idleWaitTries busy) := by
  rw [waitIdle, blk_bind, blk_get]; simp only []; rw [← hn, blk_bind_ok (waitFor_exhausted q hx hc)]; rfl

theorem waitWriteBusy_quiet {s : State} (q : Quiet s) {l rest : List Byte}
    (h : WaitReply busIdle s.cfg.writeBusyTries 0xFF#8 l) (hc : s.card = l ++ rest) :
    waitWriteBusy s = .ok true (polled s s.cfg.writeBusyTries l) := by
  rw [waitWriteBusy, blk_bind, blk_get]; simp only []; rw [blk_bind_ok (waitFor_quiet q h hc)]; rfl

theorem waitWriteBusy_exhausted {s : State} (q : Quiet s) {busy rest : List Byte}
    (hn : busy.length = s.cfg.writeBusyTries) (hx : ∀ x ∈ busy, busIdle x = false) (hc : s.card = busy ++ rest) :
    waitWriteBusy s = .ok false (polled s s.cfg.writeBusyTries busy) := by
  rw [waitWriteBusy, blk_bind, blk_get]; simp only []; rw [← hn, blk_bind_ok (waitFor_exhausted q hx hc)]; rfl

theorem waitEraseBusy_quiet {s : State} (q : Quiet s) {l rest : List Byte}
    (h : WaitReply busIdle s.cfg.eraseBusyTries 0xFF#8 l) (hc : s.card = l ++ rest) :
    waitEraseBusy s = .ok true (polled s s.cfg.eraseBusyTries l) := by
  rw [waitEraseBusy, blk_bind, blk_get]; simp only []; rw [blk_bind_ok (waitFor_quiet q h hc)]; rfl

theorem waitToken_quiet {s : State} (q : Quiet s) {t : Byte} {l rest : List Byte}
    (h : WaitReply tokenArrived s.cfg.tokenWaitTries t l) (hc : s.card = l ++ rest) :
    waitToken s = .ok t (polled s s.cfg.tokenWaitTries l) := by
  rw [waitToken, blk_bind, blk_get]; simp only []; rw [blk_bind_ok (waitFor_quiet q h hc)]; rfl

/-- A required wait, command or transfer that succeeds. -/
theorem require_ok {m : Blk Bool} {s t : State} (q : Quiet s) (n : Nat) (c : Cause)
    (h : m { s with seq := .body n 1 } = .ok true t) : require n c m s = .ok () t := by
  rw [require, blk_bind_ok (line_quiet q n), blk_bind_ok h]; rfl

/-- A required wait, command or transfer that fails raises its cause, from the second statement of its line. -/
theorem require_failed {m : Blk Bool} {s t : State} (q : Quiet s) (n : Nat) (c : Cause)
    (h : m { s with seq := .body n 1 } = .ok false t) (qt : Quiet t) :
    require n c m s = .error (.raised c) { t with seq := .body n 2 } := by
  rw [require, blk_bind_ok (line_quiet q n), blk_bind_ok h]
  simp only [Bool.false_eq_true, if_false]
  rw [blk_bind_ok (part_quiet qt n 2)]; rfl

/-- A test of a value at hand: `if not b: raise Fail(c)`. -/
theorem require_pass {s : State} (q : Quiet s) (n : Nat) (c : Cause) {b : Bool} (h : b = true) :
    require n c (pure b) s = .ok () { s with seq := .body n 1 } := require_ok q n c (by rw [h]; rfl)

theorem require_stop {s : State} (q : Quiet s) (n : Nat) (c : Cause) {b : Bool} (h : b = false) :
    require n c (pure b) s = .error (.raised c) { s with seq := .body n 2 } :=
  require_failed q n c (t := { s with seq := .body n 1 }) (by rw [h]; rfl) q

end Sys2Proof.Machine
end

