-- ==== Sys2Proof/Laws/Data.lean ====
section
/-! SUPPORT. What the data framing does when nothing arrives from outside, the card's bytes are known and the platform admits
the buffer (41_wait_and_data.md R125 to R127, 44_register_ops.md R200). -/
namespace Sys2Proof.Machine

@[simp] theorem setByteIdx_apply (i : Nat) (s : State) : setByteIdx i s = .ok () { s with byteIdx := i } := rfl

/-! ### Receiving -/

/-- A write of a byte the requester has not written while the operation runs. -/
theorem memWrite_quiet {s : State} (q : Quiet s) {a : Nat} (hr : oldValues (bufAddr s a) s.reqOld = [])
    (h : inRegions s.cfg.noWrite (bufAddr s a) = false) (v : Byte) :
    memWrite a v s = .ok () { s with
      blkOld := (bufAddr s a, memGet s.mem (bufAddr s a)) :: s.blkOld, mem := memPut s.mem (bufAddr s a) v,
      trace := .memWrite (bufAddr s a) v :: s.trace } := by
  rw [memWrite, blk_bind_ok (sync_quiet q), blk_bind, blk_get]
  simp only [h, hr, raceWrite, racePick, loser]
  simp [emit, blk_bind]

/-- A write the platform does not admit: stuck, nothing written (R55, D38). -/
theorem memWrite_stuck {s : State} (q : Quiet s) {a : Nat} (h : inRegions s.cfg.noWrite (bufAddr s a) = true)
    (v : Byte) : memWrite a v s = .error .stuck s := by
  rw [memWrite, blk_bind_ok (sync_quiet q), blk_bind, blk_get]
  simp only [h]
  rfl

/-- `s` after a payload, from byte `i` of it on, is received and stored (R54, R125); `old` is what it overwrote. -/
def received (s : State) (dest i : Nat) (payload : List Byte) (old : List Host.Cell) : State :=
  { s with
    card := s.card.drop payload.length,
    trace := (receiveEvents s.cfg.bufAddrWidth (dest + i) payload).reverse ++ s.trace,
    xchgs := s.xchgs + payload.length, mem := storeBytes s.cfg.bufAddrWidth (dest + i) payload s.mem,
    byteIdx := if payload.isEmpty then s.byteIdx else i + payload.length - 1, blkOld := old }

@[simp] theorem received_inbox (s : State) (dest i : Nat) (payload : List Byte) (old : List Host.Cell) :
    (received s dest i payload old).inbox = s.inbox := rfl

@[simp] theorem received_card (s : State) (dest i : Nat) (payload : List Byte) (old : List Host.Cell) :
    (received s dest i payload old).card = s.card.drop payload.length := rfl

@[simp] theorem received_cfg (s : State) (dest i : Nat) (payload : List Byte) (old : List Host.Cell) :
    (received s dest i payload old).cfg = s.cfg := rfl

/-- The state after one payload byte and then the others. -/
theorem received_cons (s : State) (dest i : Nat) (b : Byte) (bs : List Byte) (old old' : List Host.Cell) :
    received { heard { s with byteIdx := i } [filler] [b] with
        blkOld := old', mem := memPut s.mem (bufAddr s (dest + i)) b,
        trace := .memWrite (bufAddr s (dest + i)) b :: (heard { s with byteIdx := i } [filler] [b]).trace }
      dest (i + 1) bs old = received s dest i (b :: bs) old := by
  have e1 : (if bs.isEmpty then i else i + 1 + bs.length - 1) =
      if (b :: bs).isEmpty then s.byteIdx else i + (b :: bs).length - 1 := by cases bs <;> simp; omega
  simp only [received, State.mk.injEq, heard, e1]
  simp [receiveEvents, storeBytes, xchgEvents, bufAddr, Nat.add_assoc, Nat.add_comm 1]

/-- A payload received: each byte stored right after its exchange, ascending (R54, R125). -/
theorem receivePayload_quiet {payload : List Byte} : ∀ {dest i : Nat} {s : State} (_ : Quiet s) (_ : s.reqOld = [])
    {rest : List Byte}
    (_ : s.card = payload ++ rest) (_ : WritesAdmitted s (dest + i) payload.length),
    ∃ old, receivePayload dest i payload.length s = .ok () (received s dest i payload old) := by
  induction payload with
  | nil => intro dest i s q hr rest hc ha; exact ⟨s.blkOld, rfl⟩
  | cons b bs ih =>
    intro dest i s q hr rest hc ha
    have h0 := ha 0 (by simp)
    rw [List.length_cons, receivePayload, blk_bind_ok (setByteIdx_apply i s),
      blk_bind_ok (xchg_quiet (s := { s with byteIdx := i }) q hc filler),
      blk_bind_ok (memWrite_quiet (s := heard { s with byteIdx := i } [filler] [b]) q (a := dest + i)
        (by simp [heard, hr, oldValues]) h0 b)]
    obtain ⟨old, h⟩ := ih (dest := dest) (i := i + 1) (s := { heard { s with byteIdx := i } [filler] [b] with
      blkOld := (bufAddr s (dest + i), memGet s.mem (bufAddr s (dest + i))) :: s.blkOld,
      mem := memPut s.mem (bufAddr s (dest + i)) b,
      trace := .memWrite (bufAddr s (dest + i)) b :: (heard { s with byteIdx := i } [filler] [b]).trace }) q hr
      (rest := rest) (by simp [hc])
      (fun j hj => by have := ha (j + 1) (by simpa using hj); rw [← Nat.add_assoc, Nat.add_right_comm]; exact this)
    exact ⟨old, h.trans (by rw [received_cons])⟩

/-- One data block received: the start token, the payload, two CRC bytes read and discarded (R125). -/
theorem dataReceive_quiet {s : State} (q : Quiet s) (hr : s.reqOld = []) {dest : Nat} {t payload crc rest : List Byte}
    (ht : WaitReply tokenArrived s.cfg.tokenWaitTries startToken t) (hcrc : crc.length = 2)
    (hc : s.card = t ++ payload ++ crc ++ rest) (ha : WritesAdmitted s dest payload.length) :
    ∃ old, dataReceive payload.length dest s =
      .ok true (heard (received (polled s s.cfg.tokenWaitTries t) dest 0 payload old) [filler, filler] crc) := by
  have hc' : s.card = t ++ (payload ++ (crc ++ rest)) := by simpa using hc
  obtain ⟨old, h⟩ := receivePayload_quiet (payload := payload) (dest := dest) (i := 0)
    (s := polled s s.cfg.tokenWaitTries t) q hr (rest := crc ++ rest) (by simp [hc']) ha
  refine ⟨old, ?_⟩
  rw [dataReceive, blk_bind_ok (waitToken_quiet q ht hc')]
  simp only [if_true]
  rw [blk_bind_ok h, blk_bind_ok (fillers_quiet (n := 2) (ins := crc) (rest := rest)
    (s := received (polled s s.cfg.tokenWaitTries t) dest 0 payload old) q (by simp [hc']) hcrc)]
  rfl

/-- Another token than 0xFE: nothing is written (R125). -/
theorem dataReceive_wrongToken {s : State} (q : Quiet s) (len dest : Nat) {tok : Byte} {t rest : List Byte}
    (ht : WaitReply tokenArrived s.cfg.tokenWaitTries tok t) (hn : tok ≠ startToken) (hc : s.card = t ++ rest) :
    dataReceive len dest s = .ok false (polled s s.cfg.tokenWaitTries t) := by
  rw [dataReceive, blk_bind_ok (waitToken_quiet q ht hc)]
  simp only [if_neg hn]; rfl

/-- No token within the bound: the last byte is 0xFF, and nothing is written (R122, R125). -/
theorem dataReceive_exhausted {s : State} (q : Quiet s) (len dest : Nat) {t rest : List Byte}
    (hn : t.length = s.cfg.tokenWaitTries) (hx : ∀ x ∈ t, tokenArrived x = false) (hc : s.card = t ++ rest) :
    dataReceive len dest s = .ok false (polled s s.cfg.tokenWaitTries t) := by
  have hw : waitToken s = .ok (t.getLastD filler) (polled s s.cfg.tokenWaitTries t) := by
    rw [waitToken, blk_bind, blk_get]; simp only []; rw [← hn, blk_bind_ok (waitFor_exhausted q hx hc)]; rfl
  have hl : t.getLastD filler ≠ startToken := by
    cases ht : t.getLast? with
    | none =>
      have : t = [] := by simpa using ht
      subst this; decide
    | some x =>
      have hm : x ∈ t := List.mem_of_getLast? ht
      have h1 := hx x hm
      have : x = 0xFF#8 := by simpa [tokenArrived] using h1
      subst this
      rw [List.getLastD_eq_getLast?, ht]; decide
  rw [dataReceive, blk_bind_ok hw]
  simp only [if_neg hl]; rfl

/-! ### The CSD phase of INFO -/

@[simp] theorem setCsd_apply (i : Fin 16) (b : Byte) (s : State) :
    setCsd i b s = .ok () { s with csdShadow := s.csdShadow.set i b } := rfl

/-- CSD_SHADOW after payload bytes from index `i` on. -/
def csdFrom (i : Nat) : List Byte → Vector Byte 16 → Vector Byte 16
  | [], v => v
  | b :: bs, v => csdFrom (i + 1) bs (v.set (Fin.ofNat 16 i) b)

/-- Sixteen bytes fill CSD_SHADOW in arrival order (R40). -/
theorem csdFrom_all (csd v : Vector Byte 16) : csdFrom 0 csd.toList v = csd := by
  obtain ⟨⟨l⟩, h⟩ := csd
  obtain ⟨⟨m⟩, h'⟩ := v
  match l, h, m, h' with
  | [_, _, _, _, _, _, _, _, _, _, _, _, _, _, _, _], _, [_, _, _, _, _, _, _, _, _, _, _, _, _, _, _, _], _ => rfl

/-- The CSD payload goes to buffer memory as any other does, and to CSD_SHADOW (R200). -/
theorem receiveCsd_quiet {payload : List Byte} : ∀ {dest i : Nat} {s : State} (_ : Quiet s) (_ : s.reqOld = [])
    {rest : List Byte} (_ : s.card = payload ++ rest) (_ : WritesAdmitted s (dest + i) payload.length),
    ∃ old, receiveCsd dest i payload.length s = .ok ()
      { received s dest i payload old with csdShadow := csdFrom i payload s.csdShadow, seq := .body 7 1 } := by
  induction payload with
  | nil => intro dest i s q hr rest hc ha; exact ⟨s.blkOld, line_quiet q 7⟩
  | cons b bs ih =>
    intro dest i s q hr rest hc ha
    have h0 := ha 0 (by simp)
    rw [List.length_cons, receiveCsd, blk_bind_ok (line_quiet q 7), blk_bind_ok (setByteIdx_apply i _),
      blk_bind_ok (line_quiet (s := { s with seq := .body 7 1, byteIdx := i }) q 8),
      blk_bind_ok (xchg_quiet (s := { s with byteIdx := i, seq := .body 8 1 }) q hc filler),
      blk_bind_ok (line_quiet (s := heard { s with byteIdx := i, seq := .body 8 1 } [filler] [b]) q 9),
      blk_bind_ok (memWrite_quiet (s := { heard { s with byteIdx := i, seq := .body 8 1 } [filler] [b] with
        seq := .body 9 1 }) q (a := dest + i) (by simp [heard, hr, oldValues]) h0 b)]
    let s1 := { heard { s with byteIdx := i, seq := .body 9 1 } [filler] [b] with
      blkOld := (bufAddr s (dest + i), memGet s.mem (bufAddr s (dest + i))) :: s.blkOld,
      mem := memPut s.mem (bufAddr s (dest + i)) b,
      trace := .memWrite (bufAddr s (dest + i)) b :: (heard { s with byteIdx := i } [filler] [b]).trace }
    obtain ⟨old, h⟩ := ih (dest := dest) (i := i + 1)
      (s := { s1 with seq := .body 10 1, csdShadow := s.csdShadow.set (Fin.ofNat 16 i) b }) q hr
      (rest := rest) (by simp [s1, hc])
      (fun j hj => by have := ha (j + 1) (by simpa using hj); rw [← Nat.add_assoc, Nat.add_right_comm]; exact this)
    refine ⟨old, ((blk_bind_ok (line_quiet (s := s1) q 10) _).trans (blk_bind_ok (setCsd_apply _ _ _) _)).trans
      (h.trans ?_)⟩
    rw [← received_cons s dest i b bs old
      ((bufAddr s (dest + i), memGet s.mem (bufAddr s (dest + i))) :: s.blkOld)]
    rfl

/-- The CSD phase (R200). -/
theorem csdReceive_quiet {s : State} (q : Quiet s) (hr : s.reqOld = []) {t crc rest : List Byte} {csd : Vector Byte 16}
    (ht : WaitReply tokenArrived s.cfg.tokenWaitTries startToken t) (hcrc : crc.length = 2)
    (hc : s.card = t ++ csd.toList ++ crc ++ rest) (ha : WritesAdmitted s s.lBuf.toNat 16) :
    ∃ old, csdReceive s = .ok () (heard
      { received (polled s s.cfg.tokenWaitTries t) s.lBuf.toNat 0 csd.toList old with
        csdShadow := csd, seq := .body 11 2 } [filler, filler] crc) := by
  have hlen : csd.toList.length = 16 := by simp
  have hc' : s.card = t ++ (csd.toList ++ (crc ++ rest)) := by simpa using hc
  let s6 := { polled s s.cfg.tokenWaitTries t with seq := .body 6 1 }
  obtain ⟨old, h⟩ := receiveCsd_quiet (payload := csd.toList) (dest := s.lBuf.toNat + 0) (i := 0)
    (s := s6) q hr (rest := crc ++ rest) (by simp [s6, hc']) (by rw [hlen]; exact ha)
  rw [hlen, csdFrom_all] at h
  refine ⟨old, ?_⟩
  match crc, hcrc with
  | [c0, c1], _ =>
    have hw := waitToken_quiet (s := { s with seq := .body 5 1 }) q ht hc'
    refine (blk_bind_ok (line_quiet q 5) _).trans ((blk_bind_ok hw _).trans ?_)
    refine (blk_bind_ok (require_pass (s := polled { s with seq := .body 5 1 } s.cfg.tokenWaitTries t) q 6 _ rfl) _).trans ?_
    refine (blk_bind_ok (s := s6) (show payloadAddress 0 s6 = .ok (s.lBuf.toNat + 0) s6 from rfl) _).trans ?_
    rw [blk_bind_ok h]
    let s11 := { received s6 (s.lBuf.toNat + 0) 0 csd.toList old with csdShadow := csd, seq := .body 11 1 }
    have e1 := fillers_quiet (n := 1) (s := s11) q (ins := [c0]) (rest := c1 :: rest) (by simp [s11, s6, hc']) rfl
    have e2 := fillers_quiet (n := 1) (s := { heard s11 [filler] [c0] with seq := .body 11 2 }) q (ins := [c1]) (rest := rest)
      (by simp [s11, s6, hc']) rfl
    refine (blk_bind_ok (line_quiet (s := { received s6 (s.lBuf.toNat + 0) 0 csd.toList old with
      csdShadow := csd, seq := .body 7 1 }) q 11) _).trans ((blk_bind_ok e1 _).trans ?_)
    refine (blk_bind_ok (part_quiet (s := heard s11 [filler] [c0]) q 11 2) _).trans (e2.trans ?_)
    congr 1
    exact heard_cons { received s6 (s.lBuf.toNat + 0) 0 csd.toList old with csdShadow := csd, seq := .body 11 2 }
      filler c0 [filler] [c1]

/-! ### Sending -/

theorem memRead_quiet {s : State} (q : Quiet s) (hr : s.reqOld = []) {a : Nat}
    (h : inRegions s.cfg.noRead (bufAddr s a) = false) :
    memRead a s = .ok (memGet s.mem (bufAddr s a))
      { s with trace := .memRead (bufAddr s a) (memGet s.mem (bufAddr s a)) :: s.trace } := by
  rw [memRead, blk_bind_ok (sync_quiet q), blk_bind, blk_get]
  have ho : oldValues (bufAddr s a) s.reqOld = [] := by rw [hr]; rfl
  simp only [h, ho]
  rfl

/-- `s` after a payload, from byte `i` of it on, is sent while the card answers `ins` (R54, R127). -/
def payloadSent (s : State) (src i : Nat) (ins : List Byte) : State :=
  { s with
    card := s.card.drop ins.length,
    trace := (sendEvents s.cfg.bufAddrWidth (src + i)
      (loadBytes s.cfg.bufAddrWidth s.mem (src + i) ins.length) ins).reverse ++ s.trace,
    xchgs := s.xchgs + ins.length,
    byteIdx := if ins.isEmpty then s.byteIdx else i + ins.length - 1 }

@[simp] theorem payloadSent_inbox (s : State) (src i : Nat) (ins : List Byte) :
    (payloadSent s src i ins).inbox = s.inbox := rfl

@[simp] theorem payloadSent_card (s : State) (src i : Nat) (ins : List Byte) :
    (payloadSent s src i ins).card = s.card.drop ins.length := rfl

@[simp] theorem payloadSent_cfg (s : State) (src i : Nat) (ins : List Byte) :
    (payloadSent s src i ins).cfg = s.cfg := rfl

/-- A payload sent: each byte read from buffer memory right before its exchange, ascending (R54, R127). -/
theorem sendPayload_quiet {ins : List Byte} : ∀ {src i : Nat} {s : State} (_ : Quiet s) (_ : s.reqOld = [])
    {rest : List Byte} (_ : s.card = ins ++ rest) (_ : ReadsAdmitted s (src + i) ins.length),
    sendPayload src i ins.length s = .ok () (payloadSent s src i ins) := by
  induction ins with
  | nil => intro src i s q hr rest hc ha; rfl
  | cons b bs ih =>
    intro src i s q hr rest hc ha
    have h0 := ha 0 (by simp)
    have hm : memRead (src + i) { s with byteIdx := i } = .ok (memGet s.mem (bufAddr s (src + i))) { s with
        byteIdx := i,
        trace := .memRead (bufAddr s (src + i)) (memGet s.mem (bufAddr s (src + i))) :: s.trace } :=
      memRead_quiet (s := { s with byteIdx := i }) q hr (a := src + i) h0
    rw [List.length_cons, sendPayload, blk_bind_ok (setByteIdx_apply i s), blk_bind_ok hm,
      blk_bind_ok (xchg_quiet (s := { s with
        byteIdx := i,
        trace := .memRead (bufAddr s (src + i)) (memGet s.mem (bufAddr s (src + i))) :: s.trace }) q hc _)]
    refine (ih (src := src) (i := i + 1) (rest := rest) (s := heard { s with
        byteIdx := i,
        trace := .memRead (bufAddr s (src + i)) (memGet s.mem (bufAddr s (src + i))) :: s.trace }
        [memGet s.mem (bufAddr s (src + i))] [b]) q hr (by simp [hc])
      (fun j hj => by
        have := ha (j + 1) (by simpa using hj); rw [← Nat.add_assoc, Nat.add_right_comm]; exact this)).trans ?_
    have e1 : (if bs.isEmpty then i else i + 1 + bs.length - 1) =
        if (b :: bs).isEmpty then s.byteIdx else i + (b :: bs).length - 1 := by cases bs <;> simp; omega
    simp only [payloadSent, State.mk.injEq, heard, e1, EStateM.Result.ok.injEq, true_and]
    simp [sendEvents, loadBytes, xchgEvents, bufAddr, Nat.add_assoc, Nat.add_comm 1]

/-- `s` after a block is sent with this token while the card answers `a`, `ins`, `crc` and the data response `d` (R127). -/
def blockSent (s : State) (token : Byte) (src : Nat) (a : Byte) (ins crc : List Byte) (d : Byte) : State :=
  { heard (heard (payloadSent (heard s [token] [a]) src 0 ins) [filler, filler] crc) [filler] [d] with
    lastDresp := drespMask d }

@[simp] theorem blockSent_inbox (s : State) (token : Byte) (src : Nat) (a : Byte) (ins crc : List Byte) (d : Byte) :
    (blockSent s token src a ins crc d).inbox = s.inbox := by simp [blockSent]

@[simp] theorem blockSent_cfg (s : State) (token : Byte) (src : Nat) (a : Byte) (ins crc : List Byte) (d : Byte) :
    (blockSent s token src a ins crc d).cfg = s.cfg := by simp [blockSent]

@[simp] theorem blockSent_lBuf (s : State) (token : Byte) (src : Nat) (a : Byte) (ins crc : List Byte) (d : Byte) :
    (blockSent s token src a ins crc d).lBuf = s.lBuf := by simp [blockSent, payloadSent]

@[simp] theorem blockSent_reqOld (s : State) (token : Byte) (src : Nat) (a : Byte) (ins crc : List Byte) (d : Byte) :
    (blockSent s token src a ins crc d).reqOld = s.reqOld := by simp [blockSent, payloadSent]

@[simp] theorem blockSent_card (s : State) (token : Byte) (src : Nat) (a : Byte) (ins crc : List Byte) (d : Byte) :
    (blockSent s token src a ins crc d).card = s.card.drop (1 + ins.length + crc.length + 1) := by
  simp only [blockSent, heard_card, payloadSent_card, List.drop_drop, List.length_cons, List.length_nil]

/-- One block sent: the token, 512 payload bytes, two fillers, the data response read once (R126, R127). -/
theorem sendBlock_quiet {s : State} (q : Quiet s) (hr : s.reqOld = []) (token : Byte) {src : Nat} {a d : Byte}
    {ins crc rest : List Byte} (hi : ins.length = 512) (hcrc : crc.length = 2)
    (hc : s.card = [a] ++ ins ++ crc ++ [d] ++ rest) (ha : ReadsAdmitted s src 512) :
    sendBlock token src s = .ok (drespAccepted (drespMask d)) (blockSent s token src a ins crc d) := by
  have hc' : s.card = a :: (ins ++ (crc ++ (d :: rest))) := by simpa using hc
  have hp := sendPayload_quiet (ins := ins) (src := src) (i := 0) (s := heard s [token] [a]) q hr
    (rest := crc ++ (d :: rest)) (by simp [hc']) (by rw [hi]; exact ha)
  rw [hi] at hp
  rw [sendBlock, blk_bind_ok (xchg_quiet q hc' token), blk_bind_ok hp,
    blk_bind_ok (fillers_quiet (n := 2) (ins := crc) (rest := d :: rest)
      (s := payloadSent (heard s [token] [a]) src 0 ins) q (by simp [hc']) hcrc),
    readDataResponse, blk_bind_ok (xchg_quiet (b := d) (rest := rest)
      (s := heard (payloadSent (heard s [token] [a]) src 0 ins) (List.replicate 2 filler) crc) q
      (by simp [hc', hcrc]) filler)]
  rfl

end Sys2Proof.Machine
end

