-- ==== Sys2Proof/Laws/Run.lean ====
section
/-! SUPPORT. Start, pre-checks, epilogue and completion (60_exceptions.md R222 to R224, 00_scope.md R9). -/
namespace Sys2Proof.Machine

/-! ### Start -/

/-- A start while BUSY = 1 is ignored (R227). -/
theorem start_busy {s : State} (h : s.busy = true) (op : BitVec 4) (body : Blk Unit) : start op body s = s := by
  simp [start, h]

/-- A pre-check that applies completes the operation at once (R222, R223). -/
theorem start_refused {s : State} (h : s.busy = false) {op : BitVec 4} {c : Cause} (body : Blk Unit)
    (hc : preCheck op (latch op s) = some c) : start op body s = complete c.outcome (latch op s) := by
  simp [start, h, hc]

/-- Otherwise the body runs on the latched state, SEQ at its first statement (R33, R222). -/
theorem start_runs {s : State} (h : s.busy = false) {op : BitVec 4} (body : Blk Unit)
    (hc : preCheck op (latch op s) = none) :
    start op body s = run body { latch op s with seq := firstStatement op } := by
  simp [start, h, hc]

/-- The pre-check depends on the operation code, FAMILY and INIT_OK only (R223). -/
theorem preCheck_latch (op : BitVec 4) (s : State) : preCheck op (latch op s) = preCheck op s := rfl

/-- DETECT, INIT and DEINIT pass every pre-check (R223). -/
theorem preCheck_always {op : BitVec 4} (h : op = 0x1#4 ∨ op = 0x2#4 ∨ op = 0x3#4) (s : State) :
    preCheck op s = none := by rcases h with rfl | rfl | rfl <;> simp [preCheck]

/-- The data operations pass when INIT_OK = 1, ERASE and STAT unless the card is an MMC (R223). -/
theorem preCheck_ready {op : BitVec 4} (h1 : 0x4 ≤ op.toNat) (h2 : op.toNat ≤ 0xA) {s : State} (hi : s.initOk = true)
    (hm : op.toNat = 0x8 ∨ op.toNat = 0xA → s.family ≠ .mmc) : preCheck op s = none := by
  unfold preCheck
  simp only []
  rw [if_neg (by omega), if_neg (by rintro ⟨h, hf⟩; exact hm h hf), if_neg (by simp [hi])]

/-- They fail NOT_INIT before a successful INIT, unless the family test comes first (R223). -/
theorem preCheck_notInit {op : BitVec 4} (h1 : 0x4 ≤ op.toNat) (h2 : op.toNat ≤ 0xA) {s : State} (hi : s.initOk = false)
    (hm : op.toNat = 0x8 ∨ op.toNat = 0xA → s.family ≠ .mmc) : preCheck op s = some .notInit := by
  unfold preCheck
  simp only []
  rw [if_neg (by omega), if_neg (by rintro ⟨h, hf⟩; exact hm h hf), if_pos ⟨h1, hi⟩]

/-- ERASE and STAT on MMC are illegal whatever INIT_OK (R223). -/
theorem preCheck_mmc {op : BitVec 4} (h : op.toNat = 0x8 ∨ op.toNat = 0xA) {s : State} (hf : s.family = .mmc) :
    preCheck op s = some .familyUnsupported := by
  unfold preCheck
  simp only []
  rw [if_neg (by omega), if_pos ⟨h, hf⟩]

/-- A reserved code fails before anything else (R71, R223). -/
theorem preCheck_reserved {op : BitVec 4} (h : op.toNat = 0 ∨ 0xA < op.toNat) (s : State) :
    preCheck op s = some .reservedOp := by
  unfold preCheck
  simp only []
  rw [if_pos (by omega)]

/-! ### The epilogue -/

/-- `s` after Release, whose trailing byte the card answers with `trail` (R101). -/
def released (s : State) (trail : Byte) : State :=
  { s with
    cs := false, card := s.card.tail, trace := .xchg filler trail :: .deselect :: s.trace, xchgs := s.xchgs + 1 }

theorem release_quiet {s : State} (q : Quiet s) {trail : Byte} {rest : List Byte} (hc : s.card = trail :: rest) :
    release s = .ok () (released s trail) := by
  rw [release, blk_bind_ok (sync_quiet q), blk_bind, blk_modify]
  have hx := xchg_quiet (s := { s with cs := false, trace := .deselect :: s.trace }) q (b := trail) (rest := rest) hc filler
  have he : emit .deselect { s with cs := false } = .ok () { s with cs := false, trace := .deselect :: s.trace } := rfl
  simp only [] at he ⊢
  rw [blk_bind_ok he, blk_bind_ok hx]
  simp [released, heard, xchgEvents]

/-- The end of Run where the body selected the card (R9). -/
theorem finishRun_selected {s : State} (q : Quiet s) (hcs : s.cs = true) (o : Result) {trail : Byte} {rest : List Byte}
    (hc : s.card = trail :: rest) : finishRun o s = complete o (released s trail) := by
  have h : epilogue s = .ok () { released s trail with seq := .epilogue 3 1 } := by
    rw [epilogue, blk_bind_ok (at_quiet q _), blk_bind_ok (blk_get _)]
    simp only [hcs, if_true]
    refine (blk_bind_ok (at_quiet (s := { s with seq := .epilogue 2 1, cs := true }) q _) _).trans ?_
    refine (blk_bind_ok (release_quiet (s := { s with seq := .epilogue 2 2, cs := true }) q hc) _).trans ?_
    exact at_quiet (s := released { s with seq := .epilogue 2 2 } trail) q _
  rw [finishRun, h]; rfl

/-- The end of Run where it did not (R9). -/
theorem finishRun_unselected {s : State} (q : Quiet s) (hcs : s.cs = false) (o : Result) :
    finishRun o s = complete o s := by
  have h : epilogue s = .ok () { s with seq := .epilogue 3 1 } := by
    rw [epilogue, blk_bind_ok (at_quiet q _), blk_bind_ok (blk_get _)]
    simp only [hcs, Bool.false_eq_true, if_false]
    exact at_quiet (s := { s with seq := .epilogue 2 1, cs := false }) q _
  rw [finishRun, h]; rfl

theorem run_ok {body : Blk Unit} {s t : State} (h : body s = .ok () t) : run body s = finishRun .ok t := by
  rw [run, h]

theorem run_raised {body : Blk Unit} {s t : State} {c : Cause} (h : body s = .error (.raised c) t) :
    run body s = finishRun c.outcome t := by rw [run, h]

theorem run_stuck {body : Blk Unit} {s t : State} (h : body s = .error .stuck t) : run body s = t := by rw [run, h]

theorem run_abandoned {body : Blk Unit} {s t : State} (h : body s = .error .abandoned t) : run body s = t := by
  rw [run, h]

end Sys2Proof.Machine
end

