-- ==== Sys2Proof/Laws/Walks.lean ====
section
/-! SUPPORT. Each primitive and each body is a chain of moves of a few kinds, from whatever state it runs on. -/
namespace Sys2Proof.Machine

variable {L : List Label}

/-- Exchanges. -/
def busMoves : List Label := [.outside, .reset, .exchange]
/-- Commands. -/
def commandMoves : List Label := [.outside, .reset, .exchange, .counters, .lastR1]
/-- Waits. -/
def waitMoves : List Label := [.outside, .reset, .exchange, .counters]
/-- Blocks received. -/
def receiveMoves : List Label := [.outside, .reset, .exchange, .counters, .memWrite]
/-- Blocks sent. -/
def sendMoves : List Label := [.outside, .reset, .exchange, .counters, .memRead, .dresp]

theorem sub {A B : List Label} (hAB : A ⊆ B) (h : B ⊆ L) : A ⊆ L := fun _ hx => h (hAB hx)

/-! ### Primitives -/

theorem sync_moves (h : [Label.outside, .reset] ⊆ L) : Walks L sync := sync_walks (h (by simp)) (h (by simp))

theorem moveSeq_moves (h : .seq ∈ L) (p : Seq) : Walks L (moveSeq p) := .modify .seq h fun _ => ⟨p, rfl⟩

theorem at_moves (h : [Label.outside, .reset, .seq] ⊆ L) (p : Seq) : Walks L (at_ p) :=
  (moveSeq_moves (h (by simp)) p).bind fun _ => sync_moves (sub (by decide) h)

theorem part_moves (h : [Label.outside, .reset, .seq] ⊆ L) (n k : Nat) : Walks L (part n k) := at_moves h _

theorem line_moves (h : [Label.outside, .reset, .seq] ⊆ L) (n : Nat) : Walks L (line n) := at_moves h _

theorem exchanged_moves (h : .exchange ∈ L) (o i : Byte) : Walks L (exchanged o i) :=
  .modify .exchange h fun s => ⟨o, i, s.card, rfl⟩

theorem xchg_moves (h : busMoves ⊆ L) (o : Byte) : Walks L (xchg o) := by
  refine (sync_moves (sub (by decide) h)).bind fun _ => fun s => ?_
  exact Path.one .exchange (h (by simp [busMoves])) ⟨o, cardAnswer s, s.card.tail, rfl⟩

theorem receive_moves (h : busMoves ⊆ L) (i : Byte) : Walks L (receive i) :=
  (sync_moves (sub (by decide) h)).bind fun _ => exchanged_moves (h (by simp [busMoves])) _ _

theorem fillers_moves (h : busMoves ⊆ L) (n : Nat) : Walks L (fillers n) := by
  induction n with
  | zero => exact .pure ()
  | succ n ih => exact (xchg_moves h _).bind fun _ => ih

theorem sendBytes_moves (h : busMoves ⊆ L) (bs : List Byte) : Walks L (sendBytes bs) := by
  induction bs with
  | nil => exact .pure ()
  | cons b bs ih => exact (xchg_moves h _).bind fun _ => ih

theorem counters_moves (h : .counters ∈ L) (n : Nat) :
    Walks L (setTries n) ∧ Walks L (setSector n) ∧ Walks L (setByteIdx n) :=
  ⟨.modify .counters h fun s => ⟨n, s.sector, s.byteIdx, s.res, rfl⟩,
    .modify .counters h fun s => ⟨s.tries, n, s.byteIdx, s.res, rfl⟩,
    .modify .counters h fun s => ⟨s.tries, s.sector, n, s.res, rfl⟩⟩

theorem setRes_moves (h : .counters ∈ L) (r : Accum) : Walks L (setRes r) :=
  .modify .counters h fun s => ⟨s.tries, s.sector, s.byteIdx, r, rfl⟩

theorem returnRes_moves : Walks L returnRes := by
  refine Walks.get.bind fun s => ?_
  cases s.res
  · exact .pure ()
  · exact .raise _

theorem require_moves (hL : [Label.outside, .reset, .seq] ⊆ L) (n : Nat) (c : Cause) {m : Blk Bool} (h : Walks L m) :
    Walks L (require n c m) :=
  (line_moves hL n).bind fun _ => h.bind fun _ => .ite (.pure ()) ((part_moves hL n 2).bind fun _ => .raise c)

theorem isAccepted_moves {m : Blk Byte} (h : Walks L m) : Walks L (isAccepted m) := h.bind fun _ => .pure _

theorem select_moves (h : [Label.outside, .reset, .select] ⊆ L) : Walks L select :=
  (sync_moves (sub (by decide) h)).bind fun _ => fun _ => Path.one .select (h (by simp)) rfl

theorem release_moves (h : [Label.outside, .reset, .exchange, .deselect] ⊆ L) : Walks L release := by
  refine (sync_moves (sub (by decide) h)).bind fun _ => ?_
  have : Walks L (do modify fun s => { s with cs := false }; emit .deselect : Blk PUnit) := fun _ =>
    Path.one .deselect (h (by simp)) rfl
  intro s
  have h2 : Walks L (do let _ ← xchg filler; pure () : Blk PUnit) :=
    (xchg_moves (sub (by decide) h) _).bind fun _ => .pure _
  exact (this.bind fun _ => h2) s

theorem pollResponse_moves (h : waitMoves ⊆ L) (n : Nat) : ∀ last, Walks L (pollResponse n last) := by
  induction n with
  | zero => exact fun _ => .pure _
  | succ n ih =>
    exact fun _ => (xchg_moves (sub (by decide) h) _).bind fun r =>
      (counters_moves (h (by decide)) n).1.bind fun _ => .ite (.pure r) (ih r)

theorem stuffByte_moves (h : busMoves ⊆ L) (idx : Byte) : Walks L (stuffByte idx) := .ite (fillers_moves h 1) (.pure ())

theorem takeR1_moves (h : .lastR1 ∈ L) (r : Byte) : Walks L (takeR1 r) := .modify .lastR1 h fun _ => ⟨r, rfl⟩

theorem sendCommand_moves (h : commandMoves ⊆ L) (idx : Byte) (arg : Word) (crc : Byte) :
    Walks L (sendCommand idx arg crc) :=
  (sendBytes_moves (sub (by decide) h) _).bind fun _ => (stuffByte_moves (sub (by decide) h) _).bind fun _ =>
    Walks.get.bind fun s => (counters_moves (h (by decide)) s.cfg.cmdRespTries).1.bind fun _ =>
      (pollResponse_moves (sub (by decide) h) _ _).bind fun r => (takeR1_moves (h (by decide)) r).bind fun _ => .pure r

theorem receiveExt_moves (h : busMoves ++ [.ext] ⊆ L) (j : Fin 4) : Walks L (receiveExt j) :=
  (xchg_moves (sub (by decide) h) _).bind fun b => .modify .ext (h (by decide)) fun s => ⟨s.ext.set j b, s.ext32, rfl⟩

theorem getExtendedResponse_moves (h : busMoves ++ [.ext] ⊆ L) : Walks L getExtendedResponse :=
  (receiveExt_moves h 0).bind fun _ => (receiveExt_moves h 1).bind fun _ => (receiveExt_moves h 2).bind fun _ =>
    (receiveExt_moves h 3).bind fun _ => Walks.get.bind fun s =>
      (Walks.modify .ext (h (by decide)) fun s' => ⟨s'.ext, extValue s.ext, rfl⟩).bind fun _ => .pure _

theorem appCommand_moves (h : commandMoves ⊆ L) (idx : Byte) (arg : Word) : Walks L (appCommand idx arg) :=
  (sendCommand_moves h _ _ _).bind fun _ => .ite ((sendCommand_moves h _ _ _).bind fun _ => .pure _) (.pure _)

theorem waitUntil_moves (h : waitMoves ⊆ L) (p : Byte → Bool) (n : Nat) : ∀ last, Walks L (waitUntil p n last) := by
  induction n with
  | zero => exact fun _ => .pure _
  | succ n ih =>
    exact fun _ => (xchg_moves (sub (by decide) h) _).bind fun b =>
      (counters_moves (h (by decide)) n).1.bind fun _ => .ite (.pure _) (ih b)

theorem waitFor_moves (h : waitMoves ⊆ L) (p : Byte → Bool) (n : Nat) : Walks L (waitFor p n) :=
  (counters_moves (h (by decide)) n).1.bind fun _ => waitUntil_moves h p n _

theorem waitIdle_moves (h : waitMoves ⊆ L) : Walks L waitIdle :=
  Walks.get.bind fun _ => (waitFor_moves h _ _).bind fun _ => .pure _

theorem waitToken_moves (h : waitMoves ⊆ L) : Walks L waitToken :=
  Walks.get.bind fun _ => (waitFor_moves h _ _).bind fun _ => .pure _

theorem waitWriteBusy_moves (h : waitMoves ⊆ L) : Walks L waitWriteBusy :=
  Walks.get.bind fun _ => (waitFor_moves h _ _).bind fun _ => .pure _

theorem waitEraseBusy_moves (h : waitMoves ⊆ L) : Walks L waitEraseBusy :=
  Walks.get.bind fun _ => (waitFor_moves h _ _).bind fun _ => .pure _

theorem memWrite_moves (h : [Label.outside, .reset, .memWrite] ⊆ L) (a : Nat) (v : Byte) : Walks L (memWrite a v) := by
  refine (sync_moves (sub (by decide) h)).bind fun _ => .get_bind fun s => ?_
  simp only []
  split
  · exact .refl s
  · obtain ⟨w, p, n, e, hw, hn⟩ := raceWrite_cases s (memGet s.mem (bufAddr s a)) v
      (!(oldValues (bufAddr s a) s.reqOld).isEmpty)
    rw [e]
    refine Path.one .memWrite (h (by simp)) ⟨a, v, loser (memGet s.mem (bufAddr s a)) v w, w, p, n, _, rfl, ?_⟩
    cases ho : oldValues (bufAddr s a) s.reqOld with
    | nil =>
      obtain ⟨rfl, rfl, rfl⟩ := hn (by rw [ho]; rfl)
      exact .inl ⟨rfl, if_pos rfl, rfl, rfl, rfl⟩
    | cons x l => exact .inr ⟨by simp, hw⟩

theorem memRead_moves (h : [Label.outside, .reset, .memRead] ⊆ L) (a : Nat) : Walks L (memRead a) := by
  refine (sync_moves (sub (by decide) h)).bind fun _ => .get_bind fun s => ?_
  simp only []
  split
  · exact .refl s
  · obtain ⟨p, n, e⟩ := racePick_snd s (memGet s.mem (bufAddr s a)) (oldValues (bufAddr s a) s.reqOld)
    rw [e]
    exact Path.one .memRead (h (by simp)) ⟨a, _, p, n, rfl⟩

theorem receivePayload_moves (h : receiveMoves ⊆ L) (dest n : Nat) : ∀ i, Walks L (receivePayload dest i n) := by
  induction n with
  | zero => exact fun _ => .pure ()
  | succ n ih =>
    exact fun i => (counters_moves (h (by decide)) i).2.2.bind fun _ => (xchg_moves (sub (by decide) h) _).bind fun b =>
      (memWrite_moves (sub (by decide) h) _ _).bind fun _ => ih (i + 1)

theorem dataReceive_moves (h : receiveMoves ⊆ L) (len dest : Nat) : Walks L (dataReceive len dest) :=
  (waitToken_moves (sub (by decide) h)).bind fun _ =>
    .ite ((receivePayload_moves h _ _ _).bind fun _ => (fillers_moves (sub (by decide) h) 2).bind fun _ => .pure _) (.pure _)

theorem takeDresp_moves (h : .dresp ∈ L) (d : Byte) : Walks L (takeDresp d) :=
  (Walks.modify .dresp h fun _ => ⟨d, rfl⟩).bind fun _ => .pure _

theorem readDataResponse_moves (h : sendMoves ⊆ L) : Walks L readDataResponse :=
  (xchg_moves (sub (by decide) h) _).bind fun d => takeDresp_moves (h (by decide)) d

theorem sendPayload_moves (h : sendMoves ⊆ L) (src n : Nat) : ∀ i, Walks L (sendPayload src i n) := by
  induction n with
  | zero => exact fun _ => .pure ()
  | succ n ih =>
    exact fun i => (counters_moves (h (by decide)) i).2.2.bind fun _ => (memRead_moves (sub (by decide) h) _).bind fun b =>
      (xchg_moves (sub (by decide) h) _).bind fun _ => ih (i + 1)

theorem sendBlock_moves (h : sendMoves ⊆ L) (token : Byte) (src : Nat) : Walks L (sendBlock token src) :=
  (xchg_moves (sub (by decide) h) _).bind fun _ => (sendPayload_moves h _ _ _).bind fun _ =>
    (fillers_moves (sub (by decide) h) 2).bind fun _ => readDataResponse_moves h

end Sys2Proof.Machine
end

