-- ==== Sys2Proof/Laws/Bodies.lean ====
section
/-! SUPPORT. Each operation's body, and each instruction, is a chain of moves of the kinds listed for it, from whatever state it
runs on: what its rule gives under "State written". -/
namespace Sys2Proof.Machine

variable {L : List Label}

/-! ### The kinds of move each operation makes -/

def detectMoves : List Label := [.outside, .reset, .seq, .pin]
def deinitMoves : List Label := [.outside, .reset, .seq, .initOk]
def initMoves : List Label :=
  [.outside, .reset, .seq, .exchange, .select, .counters, .lastR1, .ext, .family, .initOk]
/-- RD1, RDN and STAT. -/
def readMoves : List Label := [.outside, .reset, .seq, .exchange, .select, .counters, .lastR1, .memWrite]
/-- WR1 and WRN. -/
def writeMoves : List Label := [.outside, .reset, .seq, .exchange, .select, .counters, .lastR1, .memRead, .dresp]
def eraseMoves : List Label := [.outside, .reset, .seq, .exchange, .select, .counters, .lastR1]
def infoMoves : List Label :=
  [.outside, .reset, .seq, .exchange, .select, .counters, .lastR1, .memWrite, .csd, .capkb, .blksize]

/-! ### The shared parts -/

theorem firstAddress_moves : Walks L firstAddress := Walks.get.bind fun _ => .pure _
theorem lastAddress_moves : Walks L lastAddress := Walks.get.bind fun _ => .pure _
theorem sectorCount_moves : Walks L sectorCount := Walks.get.bind fun _ => .pure _
theorem sectorAddress_moves (k : Nat) : Walks L (sectorAddress k) := Walks.get.bind fun _ => .pure _
theorem payloadAddress_moves (k : Nat) : Walks L (payloadAddress k) := Walks.get.bind fun _ => .pure _
theorem setFamily_moves (h : .family ∈ L) (f : Family) : Walks L (setFamily f) := .modify .family h fun _ => ⟨f, rfl⟩
theorem setInitOk_moves (h : .initOk ∈ L) (b : Bool) : Walks L (setInitOk b) := .modify .initOk h fun _ => ⟨b, rfl⟩
theorem writeGap_moves (h : busMoves ⊆ L) : Walks L writeGap := Walks.get.bind fun _ => fillers_moves h _

theorem receiveSector_moves (h : receiveMoves ⊆ L) (k : Nat) : Walks L (receiveSector k) :=
  (sectorAddress_moves k).bind fun _ => dataReceive_moves h _ _

theorem receiveRegister_moves (h : receiveMoves ⊆ L) (len off : Nat) : Walks L (receiveRegister len off) :=
  (payloadAddress_moves off).bind fun _ => dataReceive_moves h _ _

theorem sendSector_moves (h : sendMoves ⊆ L) (token : Byte) (k : Nat) : Walks L (sendSector token k) :=
  (sectorAddress_moves k).bind fun _ => sendBlock_moves h _ _

/-- The kinds of move every data operation makes. -/
def dataMoves : List Label := [.outside, .reset, .seq, .exchange, .select, .counters, .lastR1]

/-- A line that is a wait-ready, a command, or a test of what a command answered. -/
theorem readyLine_moves (h : dataMoves ⊆ L) (n : Nat) : Walks L (require n .readyTimeout waitIdle) :=
  require_moves (sub (by decide) h) n _ (waitIdle_moves (sub (by decide) h))

theorem commandLine_moves (h : dataMoves ⊆ L) (n : Nat) (idx : Byte) (arg : Word) :
    Walks L (require n .cmdRejected (isAccepted (sendCommand idx arg 0x00#8))) :=
  require_moves (sub (by decide) h) n _ (isAccepted_moves (sendCommand_moves (sub (by decide) h) _ _ _))

theorem appLine_moves (h : dataMoves ⊆ L) (n : Nat) (idx : Byte) (arg : Word) :
    Walks L (require n .cmdRejected (appCommand idx arg)) :=
  require_moves (sub (by decide) h) n _ (appCommand_moves (sub (by decide) h) _ _)

theorem testLine_moves (h : dataMoves ⊆ L) (n : Nat) (c : Cause) (b : Bool) : Walks L (require n c (pure b)) :=
  require_moves (sub (by decide) h) n c (.pure b)

/-! ### Presence, initialization, deinitialization -/

theorem bodyDetect_moves (h : detectMoves ⊆ L) : Walks L bodyDetect := by
  refine (line_moves (sub (by decide) h) 1).bind fun _ => ?_
  have : Walks L (do let l ← pin; modify fun s => { s with present := l == s.cfg.cdActiveLevel } : Blk PUnit) := fun s =>
    Path.one .pin (h (by decide)) ⟨_, _, _, rfl⟩
  intro s
  exact (this.bind fun _ => line_moves (sub (by decide) h) 2) s

theorem bodyDeinit_moves (h : deinitMoves ⊆ L) : Walks L bodyDeinit :=
  (line_moves (sub (by decide) h) 1).bind fun _ => (setInitOk_moves (h (by decide)) false).bind fun _ =>
    line_moves (sub (by decide) h) 2

theorem initAt_moves (h : initMoves ⊆ L) (st : InitState) (n k : Nat) : Walks L (initAt st n k) :=
  at_moves (sub (by decide) h) _

theorem initCommand_moves (h : initMoves ⊆ L) (idx : Byte) (arg : Word) (crc : Byte) : Walks L (sendCommand idx arg crc) :=
  sendCommand_moves (sub (by decide) h) _ _ _

theorem initTries_moves (h : initMoves ⊆ L) (n : Nat) : Walks L (setTries n) := (counters_moves (h (by decide)) n).1

theorem lastTry_moves (h : initMoves ⊆ L) (st : InitState) (line n : Nat) (c : Cause) : Walks L (lastTry st line n c) :=
  (initAt_moves h _ _ _).bind fun _ => (initTries_moves h n).bind fun _ => (initAt_moves h _ _ _).bind fun _ =>
    .ite ((initAt_moves h _ _ _).bind fun _ => .raise c) (.pure ())

theorem spiIdleLoop_moves (h : initMoves ⊆ L) (n : Nat) : Walks L (spiIdleLoop n) := by
  induction n with
  | zero => exact .raise _
  | succ n ih =>
    exact (initAt_moves h _ _ _).bind fun _ => (initAt_moves h _ _ _).bind fun _ => (initCommand_moves h _ _ _).bind fun r =>
      (initAt_moves h _ _ _).bind fun _ => .ite (initAt_moves h _ _ _) ((lastTry_moves h _ _ _ _).bind fun _ => ih)

theorem setCandidate_moves (h : initMoves ⊆ L) (st : InitState) (n : Nat) (f : Family) :
    Walks L (do initAt st n 1; setFamily f; initAt st (n + 1) 1 : Blk Unit) :=
  (initAt_moves h _ _ _).bind fun _ => (setFamily_moves (h (by decide)) f).bind fun _ => initAt_moves h _ _ _

theorem voltageCheckLoop_moves (h : initMoves ⊆ L) (n : Nat) : Walks L (voltageCheckLoop n) := by
  induction n with
  | zero => exact .raise _
  | succ n ih =>
    exact (initAt_moves h _ _ _).bind fun _ => (initAt_moves h _ _ _).bind fun _ => (initCommand_moves h _ _ _).bind fun r =>
      (initAt_moves h _ _ _).bind fun _ => .ite (setCandidate_moves h _ 17 _)
        ((initAt_moves h _ _ _).bind fun _ => (getExtendedResponse_moves (sub (by decide) h)).bind fun v =>
          (initAt_moves h _ _ _).bind fun _ => .ite (setCandidate_moves h _ 21 _) ((lastTry_moves h _ _ _ _).bind fun _ => ih))

theorem activateLoop_moves (h : initMoves ⊆ L) (hcs : Word) (n : Nat) : Walks L (activateLoop hcs n) := by
  induction n with
  | zero => exact .raise _
  | succ n ih =>
    exact (initAt_moves h _ _ _).bind fun _ => (initAt_moves h _ _ _).bind fun _ => (initCommand_moves h _ _ _).bind fun r =>
      (initAt_moves h _ _ _).bind fun _ => .ite (setCandidate_moves h _ 31 _)
        ((initAt_moves h _ _ _).bind fun _ => (initCommand_moves h _ _ _).bind fun r => (initAt_moves h _ _ _).bind fun _ =>
          .ite ((lastTry_moves h _ _ _ _).bind fun _ => ih) (initAt_moves h _ _ _))

theorem mmcActivateLoop_moves (h : initMoves ⊆ L) (n : Nat) : Walks L (mmcActivateLoop n) := by
  induction n with
  | zero => exact .raise _
  | succ n ih =>
    exact (initAt_moves h _ _ _).bind fun _ => (initAt_moves h _ _ _).bind fun _ => (initCommand_moves h _ _ _).bind fun r =>
      (initAt_moves h _ _ _).bind fun _ => .ite ((lastTry_moves h _ _ _ _).bind fun _ => ih) (initAt_moves h _ _ _)

theorem clearCard_moves (h : initMoves ⊆ L) : Walks L clearCard :=
  (setFamily_moves (h (by decide)) _).bind fun _ => (moveSeq_moves (h (by decide)) _).bind fun _ =>
    setInitOk_moves (h (by decide)) _

theorem rampUp_moves (h : initMoves ⊆ L) : Walks L rampUp :=
  (initAt_moves h _ _ _).bind fun _ => (clearCard_moves h).bind fun _ => (initAt_moves h _ _ _).bind fun _ =>
    Walks.get.bind fun _ => fillers_moves (sub (by decide) h) _

theorem spiIdle_moves (h : initMoves ⊆ L) : Walks L spiIdle :=
  (initAt_moves h _ _ _).bind fun _ => (select_moves (sub (by decide) h)).bind fun _ => (initAt_moves h _ _ _).bind fun _ =>
    Walks.get.bind fun _ => (initTries_moves h _).bind fun _ => spiIdleLoop_moves h _

theorem voltageCheck_moves (h : initMoves ⊆ L) : Walks L voltageCheck :=
  (initAt_moves h _ _ _).bind fun _ => Walks.get.bind fun _ => (initTries_moves h _).bind fun _ => voltageCheckLoop_moves h _

theorem activate_moves (h : initMoves ⊆ L) : Walks L activate :=
  (initAt_moves h _ _ _).bind fun _ => Walks.get.bind fun _ => (initAt_moves h _ _ _).bind fun _ => Walks.get.bind fun _ =>
    (initTries_moves h _).bind fun _ => activateLoop_moves h _ _

theorem askCapacity_moves (h : initMoves ⊆ L) : Walks L askCapacity :=
  (initAt_moves h _ _ _).bind fun _ => (initCommand_moves h _ _ _).bind fun _ => (initAt_moves h _ _ _).bind fun _ =>
    (getExtendedResponse_moves (sub (by decide) h)).bind fun _ => (initAt_moves h _ _ _).bind fun _ =>
    .ite ((initAt_moves h _ _ _).bind fun _ => setFamily_moves (h (by decide)) _) (.pure _)

theorem resolveFamily_moves (h : initMoves ⊆ L) : Walks L resolveFamily :=
  (initAt_moves h _ _ _).bind fun _ => Walks.get.bind fun _ =>
    .ite ((initAt_moves h _ _ _).bind fun _ => Walks.get.bind fun _ => (initTries_moves h _).bind fun _ => mmcActivateLoop_moves h _)
      ((initAt_moves h _ _ _).bind fun _ => Walks.get.bind fun _ => .ite (askCapacity_moves h) (.pure _))

theorem fixBlockLen_moves (h : initMoves ⊆ L) : Walks L fixBlockLen :=
  (initAt_moves h _ _ _).bind fun _ => Walks.get.bind fun _ =>
    .ite (.pure _) ((initAt_moves h _ _ _).bind fun _ => (initCommand_moves h _ _ _).bind fun _ =>
      (initAt_moves h _ _ _).bind fun _ => .ite (.pure _) ((initAt_moves h _ _ _).bind fun _ => .raise _))

theorem bodyInit_moves (h : initMoves ⊆ L) : Walks L bodyInit :=
  (rampUp_moves h).bind fun _ => (spiIdle_moves h).bind fun _ => (voltageCheck_moves h).bind fun _ =>
    (activate_moves h).bind fun _ => (resolveFamily_moves h).bind fun _ => (fixBlockLen_moves h).bind fun _ =>
    (initAt_moves h _ _ _).bind fun _ => (setInitOk_moves (h (by decide)) _).bind fun _ => initAt_moves h _ _ _

/-! ### Block transfers -/

theorem bodyRd1_moves (h : readMoves ⊆ L) : Walks L bodyRd1 :=
  (line_moves (sub (by decide) h) _).bind fun _ => (firstAddress_moves).bind fun _ =>
    (line_moves (sub (by decide) h) _).bind fun _ => (select_moves (sub (by decide) h)).bind fun _ =>
    (readyLine_moves (sub (by decide) h) _).bind fun _ => (line_moves (sub (by decide) h) _).bind fun _ =>
    (sendCommand_moves (sub (by decide) h) _ _ _).bind fun _ =>
    (testLine_moves (sub (by decide) h) _ _ _).bind fun _ =>
    (require_moves (sub (by decide) h) _ _ (receiveSector_moves (sub (by decide) h) _)).bind fun _ =>
    line_moves (sub (by decide) h) _

theorem rdnLoop_moves (h : readMoves ⊆ L) (n : Nat) : ∀ k, Walks L (rdnLoop k n) := by
  induction n with
  | zero => exact fun _ => line_moves (sub (by decide) h) _
  | succ n ih =>
    exact fun k => (line_moves (sub (by decide) h) _).bind fun _ => (counters_moves (h (by decide)) k).2.1.bind fun _ =>
      (line_moves (sub (by decide) h) _).bind fun _ => (receiveSector_moves (sub (by decide) h) k).bind fun _ =>
      .ite (ih (k + 1)) ((line_moves (sub (by decide) h) _).bind fun _ => (setRes_moves (h (by decide)) _).bind fun _ => line_moves (sub (by decide) h) _)

theorem checkStop_moves (h : readMoves ⊆ L) (r : Byte) : Walks L (checkStop r) :=
  (line_moves (sub (by decide) h) _).bind fun _ => Walks.get.bind fun _ =>
    .ite ((part_moves (sub (by decide) h) _ _).bind fun _ => setRes_moves (h (by decide)) _) (.pure _)

theorem bodyRdn_moves (h : readMoves ⊆ L) : Walks L bodyRdn :=
  (line_moves (sub (by decide) h) _).bind fun _ => (firstAddress_moves).bind fun _ =>
    (part_moves (sub (by decide) h) _ _).bind fun _ => (sectorCount_moves).bind fun _ =>
    (line_moves (sub (by decide) h) _).bind fun _ => (select_moves (sub (by decide) h)).bind fun _ =>
    (readyLine_moves (sub (by decide) h) _).bind fun _ => (line_moves (sub (by decide) h) _).bind fun _ =>
    (sendCommand_moves (sub (by decide) h) _ _ _).bind fun _ =>
    (testLine_moves (sub (by decide) h) _ _ _).bind fun _ => (line_moves (sub (by decide) h) _).bind fun _ =>
    (setRes_moves (h (by decide)) _).bind fun _ => (rdnLoop_moves h _ _).bind fun _ =>
    (line_moves (sub (by decide) h) _).bind fun _ => (sendCommand_moves (sub (by decide) h) _ _ _).bind fun _ =>
    (checkStop_moves h _).bind fun _ => (line_moves (sub (by decide) h) _).bind fun _ => returnRes_moves

theorem bodyWr1_moves (h : writeMoves ⊆ L) : Walks L bodyWr1 :=
  (line_moves (sub (by decide) h) _).bind fun _ => (firstAddress_moves).bind fun _ =>
    (line_moves (sub (by decide) h) _).bind fun _ => (select_moves (sub (by decide) h)).bind fun _ =>
    (readyLine_moves (sub (by decide) h) _).bind fun _ => (line_moves (sub (by decide) h) _).bind fun _ =>
    (sendCommand_moves (sub (by decide) h) _ _ _).bind fun _ =>
    (testLine_moves (sub (by decide) h) _ _ _).bind fun _ => (line_moves (sub (by decide) h) _).bind fun _ =>
    (writeGap_moves (sub (by decide) h)).bind fun _ =>
    (require_moves (sub (by decide) h) _ _ (sendSector_moves (sub (by decide) h) _ _)).bind fun _ =>
    (require_moves (sub (by decide) h) _ _ (waitWriteBusy_moves (sub (by decide) h))).bind fun _ =>
    line_moves (sub (by decide) h) _

theorem announceUnlessMmc_moves (h : writeMoves ⊆ L) (n : Word) : Walks L (announceUnlessMmc n) :=
  (line_moves (sub (by decide) h) _).bind fun _ => Walks.get.bind fun _ => .ite (.pure _) (Walks.bind
    ((line_moves (sub (by decide) h) _).bind fun _ => Walks.get.bind fun _ =>
      .ite ((part_moves (sub (by decide) h) _ _).bind fun _ => appCommand_moves (sub (by decide) h) _ _)
        ((line_moves (sub (by decide) h) _).bind fun _ => isAccepted_moves (sendCommand_moves (sub (by decide) h) _ _ _)))
    fun _ => testLine_moves (sub (by decide) h) _ _ _)

theorem wrnLoop_moves (h : writeMoves ⊆ L) (n : Nat) : ∀ k, Walks L (wrnLoop k n) := by
  have stop : ∀ (l : Nat) (c : Cause), Walks L (do line l; setRes (.failed c); part l 2 : Blk Unit) := fun l c =>
    (line_moves (sub (by decide) h) _).bind fun _ => (setRes_moves (h (by decide)) _).bind fun _ => part_moves (sub (by decide) h) _ _
  induction n with
  | zero => exact fun _ => line_moves (sub (by decide) h) _
  | succ n ih =>
    exact fun k => (line_moves (sub (by decide) h) _).bind fun _ => (counters_moves (h (by decide)) k).2.1.bind fun _ =>
      (line_moves (sub (by decide) h) _).bind fun _ => (sendSector_moves (sub (by decide) h) _ _).bind fun _ =>
      .ite ((line_moves (sub (by decide) h) _).bind fun _ => (waitWriteBusy_moves (sub (by decide) h)).bind fun _ =>
        .ite (ih (k + 1)) (stop 16 _)) (stop 14 _)

theorem closeWait_moves (h : writeMoves ⊆ L) : Walks L closeWait :=
  (line_moves (sub (by decide) h) _).bind fun _ => (waitIdle_moves (sub (by decide) h)).bind fun _ =>
    .ite (.pure _) ((line_moves (sub (by decide) h) _).bind fun _ => Walks.get.bind fun _ =>
      .ite ((part_moves (sub (by decide) h) _ _).bind fun _ => setRes_moves (h (by decide)) _) (.pure _))

theorem bodyWrn_moves (h : writeMoves ⊆ L) : Walks L bodyWrn :=
  (line_moves (sub (by decide) h) _).bind fun _ => (firstAddress_moves).bind fun _ =>
    (part_moves (sub (by decide) h) _ _).bind fun _ => (sectorCount_moves).bind fun _ =>
    (line_moves (sub (by decide) h) _).bind fun _ => (select_moves (sub (by decide) h)).bind fun _ =>
    (readyLine_moves (sub (by decide) h) _).bind fun _ => (announceUnlessMmc_moves h _).bind fun _ =>
    (line_moves (sub (by decide) h) _).bind fun _ => (sendCommand_moves (sub (by decide) h) _ _ _).bind fun _ =>
    (testLine_moves (sub (by decide) h) _ _ _).bind fun _ => (line_moves (sub (by decide) h) _).bind fun _ =>
    (writeGap_moves (sub (by decide) h)).bind fun _ => (line_moves (sub (by decide) h) _).bind fun _ =>
    (setRes_moves (h (by decide)) _).bind fun _ => (wrnLoop_moves h _ _).bind fun _ =>
    (line_moves (sub (by decide) h) _).bind fun _ => (xchg_moves (sub (by decide) h) _).bind fun _ =>
    (line_moves (sub (by decide) h) _).bind fun _ => (fillers_moves (sub (by decide) h) _).bind fun _ =>
    (closeWait_moves h).bind fun _ => (line_moves (sub (by decide) h) _).bind fun _ => returnRes_moves

theorem bodyErase_moves (h : eraseMoves ⊆ L) : Walks L bodyErase :=
  (line_moves (sub (by decide) h) _).bind fun _ => (firstAddress_moves).bind fun _ =>
    (part_moves (sub (by decide) h) _ _).bind fun _ => (lastAddress_moves).bind fun _ =>
    (line_moves (sub (by decide) h) _).bind fun _ => (select_moves (sub (by decide) h)).bind fun _ =>
    (readyLine_moves (sub (by decide) h) _).bind fun _ => (commandLine_moves (sub (by decide) h) _ _ _).bind fun _ =>
    (commandLine_moves (sub (by decide) h) _ _ _).bind fun _ =>
    (commandLine_moves (sub (by decide) h) _ _ _).bind fun _ =>
    (require_moves (sub (by decide) h) _ _ (waitEraseBusy_moves (sub (by decide) h))).bind fun _ =>
    line_moves (sub (by decide) h) _

/-! ### Register reads -/

theorem receiveCsd_moves (h : infoMoves ⊆ L) (dest n : Nat) : ∀ i, Walks L (receiveCsd dest i n) := by
  induction n with
  | zero => exact fun _ => line_moves (sub (by decide) h) _
  | succ n ih =>
    exact fun i => (line_moves (sub (by decide) h) _).bind fun _ => (counters_moves (h (by decide)) i).2.2.bind fun _ =>
      (line_moves (sub (by decide) h) _).bind fun _ => (xchg_moves (sub (by decide) h) _).bind fun b =>
      (line_moves (sub (by decide) h) _).bind fun _ => (memWrite_moves (sub (by decide) h) _ _).bind fun _ =>
      (line_moves (sub (by decide) h) _).bind fun _ => (Walks.modify .csd (h (by decide)) fun _ => ⟨_, rfl⟩).bind fun _ => ih (i + 1)

theorem csdReceive_moves (h : infoMoves ⊆ L) : Walks L csdReceive :=
  (line_moves (sub (by decide) h) _).bind fun _ => (waitToken_moves (sub (by decide) h)).bind fun _ =>
    (testLine_moves (sub (by decide) h) _ _ _).bind fun _ => (payloadAddress_moves 0).bind fun _ =>
    (receiveCsd_moves h _ _ _).bind fun _ => (line_moves (sub (by decide) h) _).bind fun _ =>
    (fillers_moves (sub (by decide) h) _).bind fun _ => (part_moves (sub (by decide) h) _ _).bind fun _ =>
    fillers_moves (sub (by decide) h) _

theorem scrUnlessMmc_moves (h : infoMoves ⊆ L) : Walks L scrUnlessMmc :=
  (line_moves (sub (by decide) h) _).bind fun _ => Walks.get.bind fun _ => .ite (.pure _)
    ((readyLine_moves (sub (by decide) h) _).bind fun _ => (appLine_moves (sub (by decide) h) _ _ _).bind fun _ =>
      require_moves (sub (by decide) h) _ _ (receiveRegister_moves (sub (by decide) h) _ _))

theorem bodyInfo_moves (h : infoMoves ⊆ L) : Walks L bodyInfo :=
  (line_moves (sub (by decide) h) _).bind fun _ => (select_moves (sub (by decide) h)).bind fun _ =>
    (readyLine_moves (sub (by decide) h) _).bind fun _ => (commandLine_moves (sub (by decide) h) _ _ _).bind fun _ =>
    (csdReceive_moves h).bind fun _ => (readyLine_moves (sub (by decide) h) _).bind fun _ =>
    (commandLine_moves (sub (by decide) h) _ _ _).bind fun _ =>
    (require_moves (sub (by decide) h) _ _ (receiveRegister_moves (sub (by decide) h) _ _)).bind fun _ =>
    (scrUnlessMmc_moves h).bind fun _ => (line_moves (sub (by decide) h) _).bind fun _ =>
    (Walks.modify .capkb (h (by decide)) fun _ => rfl).bind fun _ => (line_moves (sub (by decide) h) _).bind fun _ =>
    (Walks.modify .blksize (h (by decide)) fun _ => rfl).bind fun _ => line_moves (sub (by decide) h) _

theorem bodyStat_moves (h : readMoves ⊆ L) : Walks L bodyStat :=
  (line_moves (sub (by decide) h) _).bind fun _ => (select_moves (sub (by decide) h)).bind fun _ =>
    (readyLine_moves (sub (by decide) h) _).bind fun _ => (appLine_moves (sub (by decide) h) _ _ _).bind fun _ =>
    (line_moves (sub (by decide) h) _).bind fun _ => (fillers_moves (sub (by decide) h) _).bind fun _ =>
    (require_moves (sub (by decide) h) _ _ (receiveRegister_moves (sub (by decide) h) _ _)).bind fun _ =>
    line_moves (sub (by decide) h) _

/-! ### Run -/

/-- The epilogue of Run. -/
def epilogueMoves : List Label := [.outside, .reset, .seq, .exchange, .deselect]

theorem epilogue_moves (h : epilogueMoves ⊆ L) : Walks L epilogue :=
  (at_moves (sub (by decide) h) _).bind fun _ => Walks.get.bind fun _ => .ite
    ((at_moves (sub (by decide) h) _).bind fun _ => (release_moves (sub (by decide) h)).bind fun _ =>
      at_moves (sub (by decide) h) _)
    (at_moves (sub (by decide) h) _)

theorem finishRun_path (h : epilogueMoves ⊆ L) (o : Result) (s : State) :
    ∃ u, Path L s u ∧ (finishRun o s = u ∨ finishRun o s = complete o u) := by
  have p := epilogue_moves h s
  unfold finishRun
  cases he : epilogue s with
  | ok a t => rw [alone_ok he] at p; exact ⟨t, p, .inr rfl⟩
  | error e t => rw [alone_error he] at p; exact ⟨t, p, .inl rfl⟩

/-- A whole run is a chain of the body's moves and the epilogue's, and then a completion, unless it is abandoned or stuck. -/
theorem run_path {body : Blk Unit} (hb : Walks L body) (he : epilogueMoves ⊆ L) (s : State) :
    ∃ u, Path L s u ∧ (run body s = u ∨ ∃ o, run body s = complete o u) := by
  have p := hb s
  cases hs : body s with
  | ok a t =>
    rw [alone_ok hs] at p
    obtain ⟨u, pu, h⟩ := finishRun_path he .ok t
    rw [run_ok hs]
    exact ⟨u, p.trans pu, h.imp id fun h => ⟨_, h⟩⟩
  | error e t =>
    rw [alone_error hs] at p
    cases e with
    | raised c =>
      obtain ⟨u, pu, h⟩ := finishRun_path he c.outcome t
      rw [run_raised hs]
      exact ⟨u, p.trans pu, h.imp id fun h => ⟨_, h⟩⟩
    | abandoned => exact ⟨t, p, .inl (run_abandoned hs)⟩
    | stuck => exact ⟨t, p, .inl (run_stuck hs)⟩

/-- What a start can leave: the state itself while BUSY = 1, a completion of the latched state, or a run of the body from it. -/
theorem start_path {op : BitVec 4} {body : Blk Unit} (hb : Walks L body) (he : epilogueMoves ⊆ L) (s : State) :
    start op body s = s ∨ ∃ u, Path L (latch op s) u ∧ (start op body s = u ∨ ∃ o, start op body s = complete o u) := by
  by_cases h : s.busy = true
  · exact .inl (start_busy h op body)
  · have h : s.busy = false := by simpa using h
    refine .inr ?_
    cases hc : preCheck op (latch op s) with
    | some c => exact ⟨_, .refl _, .inr ⟨_, start_refused h body hc⟩⟩
    | none =>
      rw [start_runs h body hc]
      obtain ⟨u, p, hu⟩ := run_path hb he { latch op s with seq := firstStatement op }
      exact ⟨u, .step .seq (he (by decide)) ⟨_, rfl⟩ p, hu⟩

end Sys2Proof.Machine
end

