-- ==== Sys2Proof/Laws/Exec.lean ====
section
/-! SUPPORT. What executing any instruction can do, said once: it answers a next state, and that state is reached by moves of the
kinds listed for the instruction. -/
namespace Sys2Proof.Machine

/-- The kinds of move an instruction makes. -/
def movesOf : Instr → List Label
  | .detect => detectMoves ++ epilogueMoves
  | .init => initMoves ++ epilogueMoves
  | .deinit => deinitMoves ++ epilogueMoves
  | .rd1 | .rdn | .stat => readMoves ++ epilogueMoves
  | .wr1 | .wrn => writeMoves ++ epilogueMoves
  | .erase => eraseMoves ++ epilogueMoves
  | .info => infoMoves ++ epilogueMoves
  | .reserved0 | .reservedB | .reservedC | .reservedD | .reservedE | .reservedF => epilogueMoves
  | .cmd0 _ _ | .cmd1 _ _ | .cmd8 _ _ | .cmd9 _ _ | .cmd10 _ _ | .cmd12 _ _ | .acmd13 _ _ => commandMoves
  | .cmd16 _ _ | .cmd17 _ _ | .cmd18 _ _ | .cmd23 _ _ | .cmd24 _ _ | .cmd25 _ _ | .cmd32 _ _ => commandMoves
  | .cmd33 _ _ | .cmd38 _ _ | .acmd41 _ _ | .acmd51 _ _ | .cmd55 _ _ | .cmd58 _ _ => commandMoves
  | .r1 _ => busMoves ++ [.lastR1]
  | .tokenStartBlock | .tokenMultiWrite | .tokenStopTran => busMoves
  | .drespAccepted _ _ | .drespCrcRejected _ _ | .drespWriteError _ _ => busMoves ++ [.dresp]

/-- A request: ignored while BUSY = 1, completed by a pre-check, or run. -/
theorem exec_request {i : Instr} {op : BitVec 4} (h : i.opCode? = some op) (s : State) : ∃ t, exec i s = .next t ∧
    (t = s ∨ ∃ u, Path (movesOf i) (latch op s) u ∧ (t = u ∨ ∃ o, t = complete o u)) := by
  have go : ∀ {op : BitVec 4} {body : Blk Unit} {L : List Label}, Walks L body → epilogueMoves ⊆ L →
      ∃ t, (Host.Outcome.next (start op body s) : Host.Outcome State Fault Refusal) = .next t ∧
        (t = s ∨ ∃ u, Path L (latch op s) u ∧ (t = u ∨ ∃ o, t = complete o u)) :=
    fun hb he => ⟨_, rfl, start_path hb he s⟩
  cases i <;> simp only [Instr.opCode?, reduceCtorEq, Option.some.injEq] at h <;> subst h
  case detect => exact go (bodyDetect_moves (by decide)) (by decide)
  case init => exact go (bodyInit_moves (by decide)) (by decide)
  case deinit => exact go (bodyDeinit_moves (by decide)) (by decide)
  case rd1 => exact go (bodyRd1_moves (by decide)) (by decide)
  case rdn => exact go (bodyRdn_moves (by decide)) (by decide)
  case wr1 => exact go (bodyWr1_moves (by decide)) (by decide)
  case wrn => exact go (bodyWrn_moves (by decide)) (by decide)
  case erase => exact go (bodyErase_moves (by decide)) (by decide)
  case info => exact go (bodyInfo_moves (by decide)) (by decide)
  case stat => exact go (bodyStat_moves (by decide)) (by decide)
  all_goals exact go (.raise _) (by decide)

/-- A wire row: a chain of its moves. -/
theorem exec_wire {i : Instr} (h : i.opCode? = none) (s : State) : ∃ t, exec i s = .next t ∧ Path (movesOf i) s t := by
  have go : ∀ {α : Type} {m : Blk α} {L : List Label}, Walks L m →
      ∃ t, (Host.Outcome.next (alone m s) : Host.Outcome State Fault Refusal) = .next t ∧ Path L s t :=
    fun hm => ⟨_, rfl, hm s⟩
  cases i <;> simp only [Instr.opCode?, reduceCtorEq] at h
  case r1 st =>
    exact go (m := receiveR1 (0#1 ++ st)) (L := busMoves ++ [.lastR1]) ((receive_moves (by decide) _).bind fun _ => takeR1_moves (by decide) _)
  case tokenStartBlock => exact go (xchg_moves (by decide) _)
  case tokenMultiWrite => exact go (xchg_moves (by decide) _)
  case tokenStopTran => exact go (xchg_moves (by decide) _)
  case drespAccepted hi lo =>
    exact go (m := receiveDresp _) (L := busMoves ++ [.dresp]) ((receive_moves (by decide) _).bind fun _ => takeDresp_moves (by decide) _)
  case drespCrcRejected hi lo =>
    exact go (m := receiveDresp _) (L := busMoves ++ [.dresp]) ((receive_moves (by decide) _).bind fun _ => takeDresp_moves (by decide) _)
  case drespWriteError hi lo =>
    exact go (m := receiveDresp _) (L := busMoves ++ [.dresp]) ((receive_moves (by decide) _).bind fun _ => takeDresp_moves (by decide) _)
  all_goals exact go (L := commandMoves) (sendCommand_moves (List.Subset.refl _) _ _ _)

/-- A command row is SendCommand with its own index and operands (R75, R102). -/
theorem exec_command {i : Instr} {idx : Byte} {arg : Word} {crc7 : BitVec 7} (h : i.command? = some (idx, arg, crc7))
    (s : State) : exec i s = .next (alone (sendCommand idx arg (crcOperand crc7)) s) := by
  cases i <;> simp only [Instr.command?, reduceCtorEq, Option.some.injEq, Prod.mk.injEq] at h <;>
    (obtain ⟨rfl, rfl, rfl⟩ := h; rfl)

/-- Every instruction is a request or a wire row. -/
theorem exec_next (i : Instr) (s : State) : ∃ t, exec i s = .next t := by
  cases h : i.opCode? with
  | none => obtain ⟨t, ht, _⟩ := exec_wire h s; exact ⟨t, ht⟩
  | some op => obtain ⟨t, ht, _⟩ := exec_request h s; exact ⟨t, ht⟩

end Sys2Proof.Machine
end

