-- ==== Sys2Proof/Laws/Loops.lean ====
section
/-! SUPPORT. The sector loops of RDN and WRN, and the pieces operations share, when nothing arrives from outside and the card's
answers are known (43_block_transfer.md R170 to R175). -/
namespace Sys2Proof.Machine

/-- Reading the latched operands changes nothing (R35). -/
@[simp] theorem firstAddress_apply (s : State) : firstAddress s = .ok (adjust s.family s.lArg0) s := rfl
@[simp] theorem lastAddress_apply (s : State) : lastAddress s = .ok (adjust s.family s.lArg1) s := rfl
@[simp] theorem sectorAddress_apply (k : Nat) (s : State) : sectorAddress k s = .ok (s.lBuf.toNat + 512 * k) s := rfl
@[simp] theorem payloadAddress_apply (k : Nat) (s : State) : payloadAddress k s = .ok (s.lBuf.toNat + k) s := rfl
@[simp] theorem setSector_apply (k : Nat) (s : State) : setSector k s = .ok () { s with sector := k } := rfl
@[simp] theorem setRes_apply (r : Accum) (s : State) : setRes r s = .ok () { s with res := r } := rfl

/-! ### The opening every data operation shares -/

/-- `s` after Select and a wait-ready that read `w`, at this line (R100, R121, R170). -/
def opened (s : State) (n : Nat) (w : List Byte) : State :=
  polled { s with seq := .body n 1, cs := true, trace := .select :: s.trace } s.cfg.idleWaitTries w

@[simp] theorem opened_inbox (s : State) (n : Nat) (w : List Byte) : (opened s n w).inbox = s.inbox := rfl
@[simp] theorem opened_card (s : State) (n : Nat) (w : List Byte) : (opened s n w).card = s.card.drop w.length := rfl
@[simp] theorem opened_cfg (s : State) (n : Nat) (w : List Byte) : (opened s n w).cfg = s.cfg := rfl

/-- Select, then a wait-ready that succeeds, then the rest (R170). -/
theorem opening_quiet {s : State} (q : Quiet s) {w rest : List Byte} (hw : IdleReply s w) (hc : s.card = w ++ rest)
    (n m : Nat) {α : Type} (f : Blk α) :
    (do line n; select; require m .readyTimeout waitIdle; f) s = f (opened s m w) := by
  refine (blk_bind_ok (line_quiet q n) _).trans ((blk_bind_ok (select_quiet (s := { s with seq := .body n 1 }) q) _).trans ?_)
  exact blk_bind_ok (require_ok (s := { s with seq := .body n 1, cs := true, trace := .select :: s.trace }) q m _
    (waitIdle_quiet (s := { s with seq := .body m 1, cs := true, trace := .select :: s.trace }) q hw hc)) _

/-- Select, then a wait-ready that fails: nothing else of the body runs (R170). -/
theorem opening_timeout {s : State} (q : Quiet s) {w rest : List Byte} (hn : w.length = s.cfg.idleWaitTries)
    (hx : ∀ x ∈ w, busIdle x = false) (hc : s.card = w ++ rest) (n m : Nat) {α : Type} (f : Blk α) :
    (do line n; select; require m .readyTimeout waitIdle; f) s =
      .error (.raised .readyTimeout) { opened s m w with seq := .body m 2 } := by
  refine (blk_bind_ok (line_quiet q n) _).trans ((blk_bind_ok (select_quiet (s := { s with seq := .body n 1 }) q) _).trans ?_)
  exact blk_bind_error (require_failed (s := { s with seq := .body n 1, cs := true, trace := .select :: s.trace }) q m _
    (waitIdle_exhausted (s := { s with seq := .body m 1, cs := true, trace := .select :: s.trace }) q hn hx hc) q) _

/-! ### Sector loops -/

theorem receiveSector_eq (k : Nat) (s : State) : receiveSector k s = dataReceive 512 (s.lBuf.toNat + 512 * k) s := rfl

theorem sendSector_eq (token : Byte) (k : Nat) (s : State) :
    sendSector token k s = sendBlock token (s.lBuf.toNat + 512 * k) s := rfl

/-- The sectors of RDN that the card sends well: the loop goes on after them (R173). -/
theorem rdnLoop_quiet {bs : List BlockIn} : ∀ {k : Nat} {s : State} (_ : Quiet s) (_ : s.reqOld = []) {rest : List Byte},
    s.card = (bs.map BlockIn.bytes).flatten ++ rest → (∀ b ∈ bs, b.Good s 512) →
    WritesAdmitted s (s.lBuf.toNat + 512 * k) (512 * bs.length) → ∀ m : Nat,
    ∃ t, rdnLoop k (bs.length + m) s = rdnLoop (k + bs.length) m t ∧
      t = { s with
        seq := t.seq, sector := t.sector, byteIdx := t.byteIdx, tries := t.tries, blkOld := t.blkOld,
        mem := sectorsStored s.cfg.bufAddrWidth (s.lBuf.toNat + 512 * k) bs s.mem, card := rest,
        xchgs := s.xchgs + (bs.map BlockIn.bytes).flatten.length,
        trace := (sectorsInEvents s.cfg.bufAddrWidth (s.lBuf.toNat + 512 * k) bs).reverse ++ s.trace } := by
  induction bs with
  | nil =>
    intro k s q hr rest hc _ _ m
    refine ⟨s, by simp, ?_⟩
    obtain rfl : rest = s.card := by simpa using hc.symm
    rfl
  | cons b bs ih =>
    intro k s q hr rest hc hg ha m
    obtain ⟨hbt, hbp, hbc⟩ := hg b (by simp)
    let s1 := { s with seq := .body 8 1, sector := k }
    obtain ⟨old, e3⟩ := dataReceive_quiet (s := s1) q hr (dest := s.lBuf.toNat + 512 * k) (t := b.wait)
      (payload := b.payload) (crc := b.crc) (rest := (bs.map BlockIn.bytes).flatten ++ rest) hbt hbc
      (by simp [s1, hc, BlockIn.bytes]) (fun i hi => ha i (by simp; omega))
    rw [hbp] at e3
    set s2 := heard (received (polled s1 s1.cfg.tokenWaitTries b.wait) (s.lBuf.toNat + 512 * k) 0 b.payload old)
      [filler, filler] b.crc with hs2
    obtain ⟨t, ht, he⟩ := ih (k := k + 1) (s := s2) q hr (rest := rest)
      (by simp [hs2, s1, hc, BlockIn.bytes, hbp, hbc]) (fun x hx => hg x (by simp [hx]))
      (fun i hi => by
        have := ha (512 + i) (by simp; omega)
        have e : s.lBuf.toNat + 512 * k + (512 + i) = s2.lBuf.toNat + 512 * (k + 1) + i := by
          show _ = s.lBuf.toNat + _ + i; omega
        rw [e] at this; exact this) m
    refine ⟨t, ?_, ?_⟩
    · rw [show (b :: bs).length + m = (bs.length + m) + 1 by simp; omega, rdnLoop, blk_bind_ok (line_quiet q 7),
        blk_bind_ok (setSector_apply _ _),
        blk_bind_ok (line_quiet (s := { s with seq := .body 7 1, sector := k }) q 8),
        blk_bind_ok ((receiveSector_eq k s1).trans e3), if_pos rfl, ht]
      congr 1; simp; omega
    · rw [he]
      clear he ht ih e3
      simp only [hs2, s1, heard, received, polled, withTries, State.mk.injEq]
      simp [BlockIn.bytes, hbp, hbc, BlockIn.events, pollEvents, sectorsInEvents, sectorsStored, Nat.add_assoc,
        Nat.mul_add, xchgEvents]
      omega

/-- A sector whose block is not received ends RDN's loop (R173). -/
theorem rdnLoop_failed {s s' : State} (q : Quiet s) (q' : Quiet s') {k n : Nat}
    (h : receiveSector k { s with seq := .body 8 1, sector := k } = .ok false s') :
    rdnLoop k (n + 1) s = .ok () { s' with seq := .body 10 1, res := .failed .tokenFail } := by
  rw [rdnLoop, blk_bind_ok (line_quiet q 7), blk_bind_ok (setSector_apply _ _),
    blk_bind_ok (line_quiet (s := { s with seq := .body 7 1, sector := k }) q 8), blk_bind_ok h]
  simp only [Bool.false_eq_true, if_false]
  rw [blk_bind_ok (line_quiet q' 9), blk_bind_ok (setRes_apply _ _)]
  exact line_quiet (s := { s' with seq := .body 9 1, res := .failed .tokenFail }) q' 10

/-- A sector of RDN without its start token ends the loop (R173). -/
theorem rdnLoop_wrongToken {s : State} (q : Quiet s) {k n : Nat} {tok : Byte} {t rest : List Byte}
    (ht : TokenReply s tok t) (hn : tok ≠ startToken) (hc : s.card = t ++ rest) :
    rdnLoop k (n + 1) s = .ok () { polled { s with sector := k } s.cfg.tokenWaitTries t with
      seq := .body 10 1, res := .failed .tokenFail } := by
  let s1 := { s with seq := .body 8 1, sector := k }
  refine rdnLoop_failed q (s' := polled s1 s.cfg.tokenWaitTries t) q ?_
  exact (receiveSector_eq k s1).trans (dataReceive_wrongToken (s := s1) q 512 _ ht hn hc)

/-- No token within the bound ends it as well (R122, R173). -/
theorem rdnLoop_noToken {s : State} (q : Quiet s) {k n : Nat} {t rest : List Byte} (hn : t.length = s.cfg.tokenWaitTries)
    (hx : ∀ x ∈ t, tokenArrived x = false) (hc : s.card = t ++ rest) :
    rdnLoop k (n + 1) s = .ok () { polled { s with sector := k } s.cfg.tokenWaitTries t with
      seq := .body 10 1, res := .failed .tokenFail } := by
  let s1 := { s with seq := .body 8 1, sector := k }
  refine rdnLoop_failed q (s' := polled s1 s.cfg.tokenWaitTries t) q ?_
  exact (receiveSector_eq k s1).trans (dataReceive_exhausted (s := s1) q 512 _ hn hx hc)

/-- The sectors of WRN that the card accepts: the loop goes on after them (R175). -/
theorem wrnLoop_quiet {bs : List BlockOut} : ∀ {k : Nat} {s : State} (_ : Quiet s) (_ : s.reqOld = [])
    {rest : List Byte}, s.card = (bs.map BlockOut.bytes).flatten ++ rest → (∀ b ∈ bs, b.Good s) →
    ReadsAdmitted s (s.lBuf.toNat + 512 * k) (512 * bs.length) → ∀ m : Nat,
    ∃ t, wrnLoop k (bs.length + m) s = wrnLoop (k + bs.length) m t ∧
      t = { s with
        seq := t.seq, sector := t.sector, byteIdx := t.byteIdx, tries := t.tries,
        lastDresp := if bs = [] then s.lastDresp else 0x04#8, card := rest,
        xchgs := s.xchgs + (bs.map BlockOut.bytes).flatten.length,
        trace := (sectorsOutEvents s.cfg.bufAddrWidth s.mem (s.lBuf.toNat + 512 * k) bs).reverse ++ s.trace } := by
  induction bs with
  | nil =>
    intro k s q hr rest hc _ _ m
    refine ⟨s, by simp, ?_⟩
    obtain rfl : rest = s.card := by simpa using hc.symm
    rfl
  | cons b bs ih =>
    intro k s q hr rest hc hg ha m
    obtain ⟨hbp, hbc, hbd, hbb⟩ := hg b (by simp)
    let s1 := { s with seq := .body 13 1, sector := k }
    have e3 := sendBlock_quiet (s := s1) q hr multiWriteToken (src := s.lBuf.toNat + 512 * k) (a := b.token)
      (d := b.dresp) (ins := b.payload) (crc := b.crc) (rest := b.busy ++ ((bs.map BlockOut.bytes).flatten ++ rest))
      hbp hbc (by simp [s1, hc, BlockOut.bytes]) (fun i hi => ha i (by simp; omega))
    rw [hbd] at e3
    obtain ⟨s2, hs2⟩ : ∃ x, x = blockSent s1 multiWriteToken (s.lBuf.toNat + 512 * k) b.token b.payload b.crc b.dresp :=
      ⟨_, rfl⟩
    rw [← hs2] at e3
    have q2 : Quiet s2 := by rw [hs2, Quiet, blockSent_inbox]; exact q
    have c2 : s2.cfg = s.cfg := by rw [hs2, blockSent_cfg]
    have d2 : s2.card = b.busy ++ ((bs.map BlockOut.bytes).flatten ++ rest) := by
      have e : s1.card = ([b.token] ++ b.payload ++ b.crc ++ [b.dresp]) ++
          (b.busy ++ ((bs.map BlockOut.bytes).flatten ++ rest)) := by simp [s1, hc, BlockOut.bytes]
      rw [hs2, blockSent_card, e]; exact List.drop_left' (by simp; omega)
    have l2 : s2.lBuf = s.lBuf := by rw [hs2, blockSent_lBuf]
    have r2 : s2.reqOld = [] := by rw [hs2, blockSent_reqOld]; exact hr
    have e4 := waitWriteBusy_quiet (s := { s2 with seq := .body 15 1 }) q2 (l := b.busy)
      (rest := (bs.map BlockOut.bytes).flatten ++ rest) (by simpa only [c2] using hbb) d2
    obtain ⟨s3, hs3⟩ : ∃ x, x = polled { s2 with seq := .body 15 1 } s2.cfg.writeBusyTries b.busy := ⟨_, rfl⟩
    rw [← hs3] at e4
    have c3 : s3.cfg = s.cfg := by rw [hs3]; exact c2
    have l3 : s3.lBuf = s.lBuf := by rw [hs3]; exact l2
    obtain ⟨t, ht, he⟩ := ih (k := k + 1) (s := s3) (by rw [hs3]; exact q2) (by rw [hs3]; exact r2) (rest := rest)
      (by rw [hs3, polled_card]; simp [d2])
      (fun x hx => by simpa only [BlockOut.Good, WrittenReply, c3] using hg x (by simp [hx]))
      (fun i hi => by
        have h := ha (512 + i) (by simp only [List.length_cons]; omega)
        rw [bufAddr, c3, l3, show s.lBuf.toNat + 512 * (k + 1) + i = s.lBuf.toNat + 512 * k + (512 + i) by omega]
        exact h) m
    refine ⟨t, ?_, ?_⟩
    · rw [show (b :: bs).length + m = (bs.length + m) + 1 by simp; omega, wrnLoop, blk_bind_ok (line_quiet q 12),
        blk_bind_ok (setSector_apply _ _), blk_bind_ok (line_quiet (s := { s with seq := .body 12 1, sector := k }) q 13),
        blk_bind_ok ((sendSector_eq _ k s1).trans e3), if_pos rfl,
        blk_bind_ok (line_quiet q2 15), blk_bind_ok e4, if_pos rfl, ht]
      congr 1; simp; omega
    · rw [he]
      clear he ht ih e3 e4
      have hd : drespMask b.dresp = 0x04#8 := by simpa [drespAccepted] using hbd
      subst hs3 hs2
      simp only [blockSent, payloadSent, s1, heard, polled, withTries, State.mk.injEq]
      simp [BlockOut.bytes, hbp, hbc, hd, BlockOut.events, pollEvents, sectorsOutEvents, Nat.add_assoc, Nat.mul_add,
        xchgEvents]
      omega

/-- A block the card rejects ends WRN's loop (R175). -/
theorem wrnLoop_rejected {s : State} (q : Quiet s) (hr : s.reqOld = []) {k n : Nat} {b : BlockOut} {rest : List Byte}
    (hp : b.payload.length = 512) (hcrc : b.crc.length = 2) (hb : b.busy = [])
    (hd : drespAccepted (drespMask b.dresp) = false) (hc : s.card = b.bytes ++ rest)
    (ha : ReadsAdmitted s (s.lBuf.toNat + 512 * k) 512) :
    wrnLoop k (n + 1) s = .ok () { blockSent { s with sector := k } multiWriteToken
      (s.lBuf.toNat + 512 * k) b.token b.payload b.crc b.dresp with
        seq := .body 14 2, res := .failed .dataRejected } := by
  let s1 := { s with seq := .body 13 1, sector := k }
  have e := sendBlock_quiet (s := s1) q hr multiWriteToken
    (src := s.lBuf.toNat + 512 * k) (a := b.token) (d := b.dresp) (ins := b.payload) (crc := b.crc) (rest := rest) hp hcrc
    (by simp [s1, hc, BlockOut.bytes, hb]) ha
  rw [hd] at e
  obtain ⟨s2, hs2⟩ : ∃ x, x = blockSent s1 multiWriteToken (s.lBuf.toNat + 512 * k) b.token b.payload b.crc b.dresp :=
    ⟨_, rfl⟩
  rw [← hs2] at e
  have q2 : Quiet s2 := by rw [hs2, Quiet, blockSent_inbox]; exact q
  rw [wrnLoop, blk_bind_ok (line_quiet q 12), blk_bind_ok (setSector_apply _ _),
    blk_bind_ok (line_quiet (s := { s with seq := .body 12 1, sector := k }) q 13),
    blk_bind_ok ((sendSector_eq _ k s1).trans e)]
  simp only [Bool.false_eq_true, if_false]
  rw [blk_bind_ok (line_quiet q2 14), blk_bind_ok (setRes_apply _ _)]
  refine (part_quiet (s := { s2 with seq := .body 14 1, res := .failed .dataRejected }) q2 14 2).trans ?_
  rw [hs2]; rfl

end Sys2Proof.Machine
end

