-- ==== Sys2Proof/Laws/PerInstr.lean ====
section
/-! SUPPORT. What is said of every instruction as syntax, one lemma per constructor: the framing of its encoding
(30_encoding.md R70 to R73, R77, R81, R82). -/
namespace Sys2Proof.Laws.Framing

/-- A frame as R73 lays it out: six bytes, the start bits 01 at the top of the first, the end bit 1 at the bottom of the last. -/
def IsFrame : List Byte → Prop
  | [b0, _, _, _, _, b5] => b0.extractLsb' 6 2 = 0b01#2 ∧ b5.getLsbD 0 = true
  | [] | [_] | [_, _] | [_, _, _] | [_, _, _, _] | [_, _, _, _, _] | _ :: _ :: _ :: _ :: _ :: _ :: _ :: _ => False

/-- What the encoding of an instruction looks like at its position: a request has START = 1, its operation code in OP and
zeros between (R70); a command is a frame of its own index (R73, R74); a response is one byte with bit 7 = 0 (R77); a token
is one byte, none of which is the filler (R81, R85); a data response is one byte (R82). -/
def Statement (i : Instr) : Prop :=
  match encode i with
  | .request w => w.msb = true ∧ w.extractLsb' 4 27 = 0#27 ∧ i.opCode? = some (w.extractLsb' 0 4) ∧ i.command? = none
  | .wire .command bytes => IsFrame bytes ∧ i.opCode? = none ∧
      ∃ idx arg crc, i.command? = some (idx, arg, crc) ∧ idx.toNat < 64 ∧ bytes.head? = some (0x40#8 ||| idx)
  | .wire .response bytes => i.opCode? = none ∧ i.command? = none ∧ ∃ b : Byte, bytes = [b] ∧ b.getLsbD 7 = false
  | .wire .token bytes => i.opCode? = none ∧ i.command? = none ∧ ∃ b : Byte, bytes = [b] ∧ b ≠ 0xFF#8
  | .wire .dataResponse bytes => i.opCode? = none ∧ i.command? = none ∧ ∃ b : Byte, bytes = [b]

/-- A command's frame, whatever its operands. -/
theorem frame_isFrame (idx : Byte) (arg : Word) (crc : Byte) : IsFrame (frame idx arg crc) := by
  refine ⟨?_, ?_⟩
  · revert idx; decide
  · simp

/-- The statement for a command of index `n`. -/
theorem of_command {i : Instr} {n : Nat} {arg : Word} {crc7 : BitVec 7} (he : encode i = encodeCommand n arg crc7)
    (ho : i.opCode? = none) (hc : i.command? = some (BitVec.ofNat 8 n, arg, crc7)) (hn : n < 64) : Statement i := by
  unfold Statement
  rw [he]
  refine ⟨frame_isFrame _ _ _, ho, _, _, _, hc, by simp; omega, ?_⟩
  have : ∀ m : Fin 64, 0x40#8 ||| BitVec.ofNat 8 m &&& 0x3F#8 = 0x40#8 ||| BitVec.ofNat 8 m := by decide
  simpa [frame] using this ⟨n, hn⟩

theorem detect : Statement .detect := ⟨by decide, by decide, by decide, rfl⟩
theorem init : Statement .init := ⟨by decide, by decide, by decide, rfl⟩
theorem deinit : Statement .deinit := ⟨by decide, by decide, by decide, rfl⟩
theorem rd1 : Statement .rd1 := ⟨by decide, by decide, by decide, rfl⟩
theorem rdn : Statement .rdn := ⟨by decide, by decide, by decide, rfl⟩
theorem wr1 : Statement .wr1 := ⟨by decide, by decide, by decide, rfl⟩
theorem wrn : Statement .wrn := ⟨by decide, by decide, by decide, rfl⟩
theorem erase : Statement .erase := ⟨by decide, by decide, by decide, rfl⟩
theorem info : Statement .info := ⟨by decide, by decide, by decide, rfl⟩
theorem stat : Statement .stat := ⟨by decide, by decide, by decide, rfl⟩
theorem reserved0 : Statement .reserved0 := ⟨by decide, by decide, by decide, rfl⟩
theorem reservedB : Statement .reservedB := ⟨by decide, by decide, by decide, rfl⟩
theorem reservedC : Statement .reservedC := ⟨by decide, by decide, by decide, rfl⟩
theorem reservedD : Statement .reservedD := ⟨by decide, by decide, by decide, rfl⟩
theorem reservedE : Statement .reservedE := ⟨by decide, by decide, by decide, rfl⟩
theorem reservedF : Statement .reservedF := ⟨by decide, by decide, by decide, rfl⟩

theorem cmd0 (arg : Word) (crc7 : BitVec 7) : Statement (.cmd0 arg crc7) := of_command rfl rfl rfl (by decide)
theorem cmd1 (arg : Word) (crc7 : BitVec 7) : Statement (.cmd1 arg crc7) := of_command rfl rfl rfl (by decide)
theorem cmd8 (arg : Word) (crc7 : BitVec 7) : Statement (.cmd8 arg crc7) := of_command rfl rfl rfl (by decide)
theorem cmd9 (arg : Word) (crc7 : BitVec 7) : Statement (.cmd9 arg crc7) := of_command rfl rfl rfl (by decide)
theorem cmd10 (arg : Word) (crc7 : BitVec 7) : Statement (.cmd10 arg crc7) := of_command rfl rfl rfl (by decide)
theorem cmd12 (arg : Word) (crc7 : BitVec 7) : Statement (.cmd12 arg crc7) := of_command rfl rfl rfl (by decide)
theorem acmd13 (arg : Word) (crc7 : BitVec 7) : Statement (.acmd13 arg crc7) := of_command rfl rfl rfl (by decide)
theorem cmd16 (arg : Word) (crc7 : BitVec 7) : Statement (.cmd16 arg crc7) := of_command rfl rfl rfl (by decide)
theorem cmd17 (arg : Word) (crc7 : BitVec 7) : Statement (.cmd17 arg crc7) := of_command rfl rfl rfl (by decide)
theorem cmd18 (arg : Word) (crc7 : BitVec 7) : Statement (.cmd18 arg crc7) := of_command rfl rfl rfl (by decide)
theorem cmd23 (arg : Word) (crc7 : BitVec 7) : Statement (.cmd23 arg crc7) := of_command rfl rfl rfl (by decide)
theorem cmd24 (arg : Word) (crc7 : BitVec 7) : Statement (.cmd24 arg crc7) := of_command rfl rfl rfl (by decide)
theorem cmd25 (arg : Word) (crc7 : BitVec 7) : Statement (.cmd25 arg crc7) := of_command rfl rfl rfl (by decide)
theorem cmd32 (arg : Word) (crc7 : BitVec 7) : Statement (.cmd32 arg crc7) := of_command rfl rfl rfl (by decide)
theorem cmd33 (arg : Word) (crc7 : BitVec 7) : Statement (.cmd33 arg crc7) := of_command rfl rfl rfl (by decide)
theorem cmd38 (arg : Word) (crc7 : BitVec 7) : Statement (.cmd38 arg crc7) := of_command rfl rfl rfl (by decide)
theorem acmd41 (arg : Word) (crc7 : BitVec 7) : Statement (.acmd41 arg crc7) := of_command rfl rfl rfl (by decide)
theorem acmd51 (arg : Word) (crc7 : BitVec 7) : Statement (.acmd51 arg crc7) := of_command rfl rfl rfl (by decide)
theorem cmd55 (arg : Word) (crc7 : BitVec 7) : Statement (.cmd55 arg crc7) := of_command rfl rfl rfl (by decide)
theorem cmd58 (arg : Word) (crc7 : BitVec 7) : Statement (.cmd58 arg crc7) := of_command rfl rfl rfl (by decide)

theorem r1 (status : BitVec 7) : Statement (.r1 status) := ⟨rfl, rfl, _, rfl, by revert status; decide⟩
theorem tokenStartBlock : Statement .tokenStartBlock := ⟨rfl, rfl, _, rfl, by decide⟩
theorem tokenMultiWrite : Statement .tokenMultiWrite := ⟨rfl, rfl, _, rfl, by decide⟩
theorem tokenStopTran : Statement .tokenStopTran := ⟨rfl, rfl, _, rfl, by decide⟩
theorem drespAccepted (hi : BitVec 4) (lo : BitVec 1) : Statement (.drespAccepted hi lo) := ⟨rfl, rfl, _, rfl⟩
theorem drespCrcRejected (hi : BitVec 4) (lo : BitVec 1) : Statement (.drespCrcRejected hi lo) := ⟨rfl, rfl, _, rfl⟩
theorem drespWriteError (hi : BitVec 4) (lo : BitVec 1) : Statement (.drespWriteError hi lo) := ⟨rfl, rfl, _, rfl⟩

end Sys2Proof.Laws.Framing
end

