-- ==== Sys2Proof/Tests/Slice0.lean ====
section
/-! SUPPORT. The model's own tests: ill-formed terms the checks refuse; words written out from the encodings of spec/30_encoding.md;
the vectors of spec/95_test_vectors.md, one step each; and, for each statement with hypotheses, a state and operands that
meet them all. Expected values are the spec's. -/
namespace Sys2Proof.Tests
open Sys2Proof Sys2Proof.Machine

/-! ### States -/

/-- The configuration TCFG of spec/95_test_vectors.md. -/
def tcfg : Config where
  rampUpBytes := 2500
  cmdRespTries := 3
  goIdleTries := 3
  vcheckTries := 2
  activateTries := 3
  idleWaitTries := 3
  tokenWaitTries := 3
  writeBusyTries := 3
  eraseBusyTries := 3
  writeGapBytes := 3
  setBlkCntAppPrefix := true
  cdActiveLevel := false
  bufAddrWidth := 32
  noRead := []
  noWrite := []

/-- An initialized card of a family, and the bytes it will answer. -/
def ready (f : Family) (card : List Byte) : State :=
  { State.reset with cfg := tcfg, family := f, initOk := true, card := card }

/-- The block right after reset under TCFG, and the bytes the card will answer. -/
def fresh (card : List Byte) : State := { State.reset with cfg := tcfg, card := card }

/-- A step's next state, for tests that look at one field of it. -/
def after (o : Host.Outcome State Fault Refusal) : State :=
  match o with
  | .next t => t
  | .fault _ | .refused _ => State.reset

/-- `[f] r`: six frame exchanges, then the response on the first poll. -/
def reply (r : Byte) : List Byte := List.replicate 6 0xFF#8 ++ [r]

/-- The bytes the block sent, oldest first. -/
def sent (s : State) : List Byte :=
  (s.trace.reverse.filterMap fun
    | .xchg o _ => some o
    | .select | .deselect | .memRead _ _ | .memWrite _ _ => none)

/-- The six bytes `[b0, 0, 0, 0, 0, 1]`: a command without argument or CRC. -/
def bare (b0 : Byte) : List Byte := [b0, 0x00#8, 0x00#8, 0x00#8, 0x00#8, 0x01#8]

/-! ### Well-formedness: an ill-formed term for each check -/

theorem test_wf_cmd0 : (Instr.cmd0 0#32 0x4A#7).wf ∧ ¬ (Instr.cmd0 1#32 0x4A#7).wf ∧ ¬ (Instr.cmd0 0#32 0x4B#7).wf := by decide
theorem test_wf_cmd8 : (Instr.cmd8 0x1AA#32 0x43#7).wf ∧ ¬ (Instr.cmd8 0x1AB#32 0x43#7).wf ∧ ¬ (Instr.cmd8 0x1AA#32 0#7).wf := by decide
theorem test_wf_acmd41 : (Instr.acmd41 0x40000000#32 0#7).wf ∧ (Instr.acmd41 0#32 0#7).wf ∧ ¬ (Instr.acmd41 1#32 0#7).wf ∧
    ¬ (Instr.acmd41 0#32 1#7).wf := by decide
theorem test_wf_cmd1 : (Instr.cmd1 0x0#32 0#7).wf ∧ ¬ (Instr.cmd1 0x1#32 0#7).wf ∧ ¬ (Instr.cmd1 0x0#32 1#7).wf := by decide
theorem test_wf_cmd9 : (Instr.cmd9 0x0#32 0#7).wf ∧ ¬ (Instr.cmd9 0x1#32 0#7).wf ∧ ¬ (Instr.cmd9 0x0#32 1#7).wf := by decide
theorem test_wf_cmd10 : (Instr.cmd10 0x0#32 0#7).wf ∧ ¬ (Instr.cmd10 0x1#32 0#7).wf ∧ ¬ (Instr.cmd10 0x0#32 1#7).wf := by decide
theorem test_wf_cmd12 : (Instr.cmd12 0x0#32 0#7).wf ∧ ¬ (Instr.cmd12 0x1#32 0#7).wf ∧ ¬ (Instr.cmd12 0x0#32 1#7).wf := by decide
theorem test_wf_acmd13 : (Instr.acmd13 0x0#32 0#7).wf ∧ ¬ (Instr.acmd13 0x1#32 0#7).wf ∧ ¬ (Instr.acmd13 0x0#32 1#7).wf := by decide
theorem test_wf_cmd16 : (Instr.cmd16 0x200#32 0#7).wf ∧ ¬ (Instr.cmd16 0x201#32 0#7).wf ∧ ¬ (Instr.cmd16 0x200#32 1#7).wf := by decide
theorem test_wf_cmd38 : (Instr.cmd38 0x0#32 0#7).wf ∧ ¬ (Instr.cmd38 0x1#32 0#7).wf ∧ ¬ (Instr.cmd38 0x0#32 1#7).wf := by decide
theorem test_wf_acmd51 : (Instr.acmd51 0x0#32 0#7).wf ∧ ¬ (Instr.acmd51 0x1#32 0#7).wf ∧ ¬ (Instr.acmd51 0x0#32 1#7).wf := by decide
theorem test_wf_cmd55 : (Instr.cmd55 0x0#32 0#7).wf ∧ ¬ (Instr.cmd55 0x1#32 0#7).wf ∧ ¬ (Instr.cmd55 0x0#32 1#7).wf := by decide
theorem test_wf_cmd58 : (Instr.cmd58 0x0#32 0#7).wf ∧ ¬ (Instr.cmd58 0x1#32 0#7).wf ∧ ¬ (Instr.cmd58 0x0#32 1#7).wf := by decide
theorem test_wf_cmd17 : (Instr.cmd17 0xFFFFFFFF#32 0#7).wf ∧ ¬ (Instr.cmd17 0#32 1#7).wf := by decide
theorem test_wf_cmd18 : (Instr.cmd18 0xFFFFFFFF#32 0#7).wf ∧ ¬ (Instr.cmd18 0#32 1#7).wf := by decide
theorem test_wf_cmd23 : (Instr.cmd23 0xFFFFFFFF#32 0#7).wf ∧ ¬ (Instr.cmd23 0#32 1#7).wf := by decide
theorem test_wf_cmd24 : (Instr.cmd24 0xFFFFFFFF#32 0#7).wf ∧ ¬ (Instr.cmd24 0#32 1#7).wf := by decide
theorem test_wf_cmd25 : (Instr.cmd25 0xFFFFFFFF#32 0#7).wf ∧ ¬ (Instr.cmd25 0#32 1#7).wf := by decide
theorem test_wf_cmd32 : (Instr.cmd32 0xFFFFFFFF#32 0#7).wf ∧ ¬ (Instr.cmd32 0#32 1#7).wf := by decide
theorem test_wf_cmd33 : (Instr.cmd33 0xFFFFFFFF#32 0#7).wf ∧ ¬ (Instr.cmd33 0#32 1#7).wf := by decide

/-! ### Decoding: words written out from R70, R71, R73, R75, R77, R81 and R82 -/

theorem test_decode_reserved0 : decode (.request 0x80000000#32) = .ok .reserved0 ∧ decode (.request 0xFFFFFFF0#32) = .ok .reserved0 := ⟨rfl, rfl⟩
theorem test_decode_detect : decode (.request 0x80000001#32) = .ok .detect ∧ decode (.request 0xFFFFFFF1#32) = .ok .detect := ⟨rfl, rfl⟩
theorem test_decode_init : decode (.request 0x80000002#32) = .ok .init ∧ decode (.request 0xFFFFFFF2#32) = .ok .init := ⟨rfl, rfl⟩
theorem test_decode_deinit : decode (.request 0x80000003#32) = .ok .deinit ∧ decode (.request 0xFFFFFFF3#32) = .ok .deinit := ⟨rfl, rfl⟩
theorem test_decode_rd1 : decode (.request 0x80000004#32) = .ok .rd1 ∧ decode (.request 0xFFFFFFF4#32) = .ok .rd1 := ⟨rfl, rfl⟩
theorem test_decode_rdn : decode (.request 0x80000005#32) = .ok .rdn ∧ decode (.request 0xFFFFFFF5#32) = .ok .rdn := ⟨rfl, rfl⟩
theorem test_decode_wr1 : decode (.request 0x80000006#32) = .ok .wr1 ∧ decode (.request 0xFFFFFFF6#32) = .ok .wr1 := ⟨rfl, rfl⟩
theorem test_decode_wrn : decode (.request 0x80000007#32) = .ok .wrn ∧ decode (.request 0xFFFFFFF7#32) = .ok .wrn := ⟨rfl, rfl⟩
theorem test_decode_erase : decode (.request 0x80000008#32) = .ok .erase ∧ decode (.request 0xFFFFFFF8#32) = .ok .erase := ⟨rfl, rfl⟩
theorem test_decode_info : decode (.request 0x80000009#32) = .ok .info ∧ decode (.request 0xFFFFFFF9#32) = .ok .info := ⟨rfl, rfl⟩
theorem test_decode_stat : decode (.request 0x8000000A#32) = .ok .stat ∧ decode (.request 0xFFFFFFFA#32) = .ok .stat := ⟨rfl, rfl⟩
theorem test_decode_reservedB : decode (.request 0x8000000B#32) = .ok .reservedB ∧ decode (.request 0xFFFFFFFB#32) = .ok .reservedB := ⟨rfl, rfl⟩
theorem test_decode_reservedC : decode (.request 0x8000000C#32) = .ok .reservedC ∧ decode (.request 0xFFFFFFFC#32) = .ok .reservedC := ⟨rfl, rfl⟩
theorem test_decode_reservedD : decode (.request 0x8000000D#32) = .ok .reservedD ∧ decode (.request 0xFFFFFFFD#32) = .ok .reservedD := ⟨rfl, rfl⟩
theorem test_decode_reservedE : decode (.request 0x8000000E#32) = .ok .reservedE ∧ decode (.request 0xFFFFFFFE#32) = .ok .reservedE := ⟨rfl, rfl⟩
theorem test_decode_reservedF : decode (.request 0x8000000F#32) = .ok .reservedF ∧ decode (.request 0xFFFFFFFF#32) = .ok .reservedF := ⟨rfl, rfl⟩

theorem test_decode_cmd0 : decode (.wire .command [0x40#8, 0x00#8, 0x00#8, 0x00#8, 0x00#8, 0x95#8]) = .ok (.cmd0 0x00000000#32 0x4A#7) := rfl
theorem test_decode_cmd1 : decode (.wire .command [0x41#8, 0x00#8, 0x00#8, 0x00#8, 0x00#8, 0x01#8]) = .ok (.cmd1 0x00000000#32 0x00#7) := rfl
theorem test_decode_cmd8 : decode (.wire .command [0x48#8, 0x00#8, 0x00#8, 0x01#8, 0xAA#8, 0x87#8]) = .ok (.cmd8 0x000001AA#32 0x43#7) := rfl
theorem test_decode_cmd9 : decode (.wire .command [0x49#8, 0x00#8, 0x00#8, 0x00#8, 0x00#8, 0x01#8]) = .ok (.cmd9 0x00000000#32 0x00#7) := rfl
theorem test_decode_cmd10 : decode (.wire .command [0x4A#8, 0x00#8, 0x00#8, 0x00#8, 0x00#8, 0x01#8]) = .ok (.cmd10 0x00000000#32 0x00#7) := rfl
theorem test_decode_cmd12 : decode (.wire .command [0x4C#8, 0x00#8, 0x00#8, 0x00#8, 0x00#8, 0x01#8]) = .ok (.cmd12 0x00000000#32 0x00#7) := rfl
theorem test_decode_acmd13 : decode (.wire .command [0x4D#8, 0x00#8, 0x00#8, 0x00#8, 0x00#8, 0x01#8]) = .ok (.acmd13 0x00000000#32 0x00#7) := rfl
theorem test_decode_cmd16 : decode (.wire .command [0x50#8, 0x00#8, 0x00#8, 0x02#8, 0x00#8, 0x01#8]) = .ok (.cmd16 0x00000200#32 0x00#7) := rfl
theorem test_decode_cmd17 : decode (.wire .command [0x51#8, 0x00#8, 0x00#8, 0x0A#8, 0x00#8, 0x01#8]) = .ok (.cmd17 0x00000A00#32 0x00#7) := rfl
theorem test_decode_cmd18 : decode (.wire .command [0x52#8, 0x00#8, 0x00#8, 0x06#8, 0x00#8, 0x01#8]) = .ok (.cmd18 0x00000600#32 0x00#7) := rfl
theorem test_decode_cmd23 : decode (.wire .command [0x57#8, 0x00#8, 0x00#8, 0x00#8, 0x02#8, 0x01#8]) = .ok (.cmd23 0x00000002#32 0x00#7) := rfl
theorem test_decode_cmd24 : decode (.wire .command [0x58#8, 0x00#8, 0x00#8, 0x02#8, 0x00#8, 0x01#8]) = .ok (.cmd24 0x00000200#32 0x00#7) := rfl
theorem test_decode_cmd25 : decode (.wire .command [0x59#8, 0x00#8, 0x00#8, 0x00#8, 0x64#8, 0x01#8]) = .ok (.cmd25 0x00000064#32 0x00#7) := rfl
theorem test_decode_cmd32 : decode (.wire .command [0x60#8, 0x00#8, 0x00#8, 0x00#8, 0x0A#8, 0x01#8]) = .ok (.cmd32 0x0000000A#32 0x00#7) := rfl
theorem test_decode_cmd33 : decode (.wire .command [0x61#8, 0x00#8, 0x00#8, 0x00#8, 0x14#8, 0x01#8]) = .ok (.cmd33 0x00000014#32 0x00#7) := rfl
theorem test_decode_cmd38 : decode (.wire .command [0x66#8, 0x00#8, 0x00#8, 0x00#8, 0x00#8, 0x01#8]) = .ok (.cmd38 0x00000000#32 0x00#7) := rfl
theorem test_decode_acmd41 : decode (.wire .command [0x69#8, 0x40#8, 0x00#8, 0x00#8, 0x00#8, 0x01#8]) = .ok (.acmd41 0x40000000#32 0x00#7) := rfl
theorem test_decode_acmd51 : decode (.wire .command [0x73#8, 0x00#8, 0x00#8, 0x00#8, 0x00#8, 0x01#8]) = .ok (.acmd51 0x00000000#32 0x00#7) := rfl
theorem test_decode_cmd55 : decode (.wire .command [0x77#8, 0x00#8, 0x00#8, 0x00#8, 0x00#8, 0x01#8]) = .ok (.cmd55 0x00000000#32 0x00#7) := rfl
theorem test_decode_cmd58 : decode (.wire .command [0x7A#8, 0x00#8, 0x00#8, 0x00#8, 0x00#8, 0x01#8]) = .ok (.cmd58 0x00000000#32 0x00#7) := rfl

theorem test_decode_r1 : decode (.wire .response [0x7F#8]) = .ok (.r1 0x7F#7) ∧
    decode (.wire .response [0x80#8]) = .error .noResponse := ⟨rfl, rfl⟩
theorem test_decode_tokenStartBlock : decode (.wire .token [0xFE#8]) = .ok .tokenStartBlock := rfl
theorem test_decode_tokenMultiWrite : decode (.wire .token [0xFC#8]) = .ok .tokenMultiWrite := rfl
theorem test_decode_tokenStopTran : decode (.wire .token [0xFD#8]) = .ok .tokenStopTran := rfl
theorem test_decode_drespAccepted : decode (.wire .dataResponse [0xE5#8]) = .ok (.drespAccepted 0xE#4 0x1#1) := rfl
theorem test_decode_drespCrcRejected : decode (.wire .dataResponse [0x0B#8]) = .ok (.drespCrcRejected 0x0#4 0x1#1) := rfl
theorem test_decode_drespWriteError : decode (.wire .dataResponse [0x0D#8]) = .ok (.drespWriteError 0x0#4 0x1#1) := rfl

/-- What is no instruction is refused, by name. -/
theorem test_decode_rejects : decode (.request 0x7FFFFFFF#32) = .error .startClear ∧
    decode (.wire .command [0x42#8, 0x00#8, 0x00#8, 0x00#8, 0x00#8, 0x01#8]) = .error .notACommand ∧
    decode (.wire .command [0x40#8]) = .error .wrongLength ∧ decode (.wire .token [0xFF#8]) = .error .notAToken ∧
    decode (.wire .dataResponse [0x0E#8]) = .error .undefinedStatus ∧ decode (.wire .response []) = .error .wrongLength :=
  ⟨rfl, rfl, rfl, rfl, rfl, rfl⟩

/-- Words numbered as the opcode table numbers them: bit 0 is the least significant bit of the first byte. -/
theorem test_table_words : decodeTableWord 32 0x80000004 = some .rd1 ∧ decodeTableWord 48 0x950000000040 = some (.cmd0 0#32 0x4A#7) ∧
    decodeTableWord 48 0x01000A000051 = some (.cmd17 0x00000A00#32 0#7) ∧ decodeTableWord 8 0x48 = some (.cmd8 0#32 0#7) ∧
    decodeTableWord 8 0xFE = some .tokenStartBlock ∧ decodeTableWord 8 0x05 = some (.drespAccepted 0#4 1#1) ∧
    decodeTableWord 8 0x01 = some (.r1 1#7) ∧ decodeTableWord 8 0xFF = none := ⟨rfl, rfl, rfl, rfl, rfl, rfl, rfl, rfl⟩

/-! ### One step of each operation: the vectors of spec/95_test_vectors.md, under TCFG -/

/-- V-DETECT-1, V-DETECT-2: the level 0 is active, so PRESENT = 1; with level 1, PRESENT = 0. -/
theorem test_detect : statusWord (after (exec .detect { fresh [] with pins := [false] })) = 0x180#32 ∧
    statusWord (after (exec .detect { fresh [] with pins := [true], present := true })) = 0x100#32 := by decide +kernel

/-- V-DEINIT-1. -/
theorem test_deinit : statusWord (after (exec .deinit (ready .sdscV2 []))) = 0x130#32 := by decide +kernel

/-- The card stream of V-INIT-1 after the ramp-up bytes. -/
def init1Card : List Byte :=
  reply 0x01#8 ++ reply 0x01#8 ++ [0x00#8, 0x00#8, 0x01#8, 0xAA#8] ++ reply 0x01#8 ++ reply 0x01#8 ++ reply 0x01#8 ++
    reply 0x00#8 ++ reply 0x00#8 ++ [0xC0#8, 0xFF#8, 0x80#8, 0x00#8] ++ [0xFF#8]

/-- V-INIT-1: an SDHC card, one ACMD41 retry, 2558 exchanges. -/
theorem test_init_sdhc : let t := after (exec .init (fresh (List.replicate 2500 0xFF#8 ++ init1Card)))
    statusWord t = 0x148#32 ∧ t.xchgs = 2558 := by decide +kernel

/-- V-INIT-9: CMD8 is never answered, which passes "rejected as illegal": SDSC_V1, 2541 exchanges. -/
theorem test_init_silent : let t := after (exec .init (fresh (List.replicate 2500 0xFF#8 ++ reply 0x01#8 ++ List.replicate 9 0xFF#8 ++
      reply 0xFF#8 ++ [0x01#8] ++ reply 0xFF#8 ++ [0xFF#8, 0x00#8] ++ reply 0x00#8 ++ [0xFF#8])))
    statusWord t = 0x128#32 ∧ t.xchgs = 2541 := by decide +kernel

/-- V-RD1-6: an error token. The frame carries 5 × 512. -/
theorem test_rd1_token : let t := after (exec .rd1 { ready .sdscV2 ([0xFF#8] ++ reply 0x00#8 ++ [0x08#8, 0xFF#8]) with arg0 := 5#32 })
    statusWord t = 0x13A#32 ∧ t.mem = [] ∧ sent t = [0xFF#8, 0x51#8, 0x00#8, 0x00#8, 0x0A#8, 0x00#8, 0x01#8, 0xFF#8, 0xFF#8, 0xFF#8] := by
  decide +kernel

/-- V-RD1-2: a whole sector; the first and the last byte stand at L_BUF and L_BUF + 511. -/
theorem test_rd1_reads : let t := after (exec .rd1 { ready .sdhc ([0xFF#8] ++ reply 0x00#8 ++ [0xFE#8, 0x11#8] ++
      List.replicate 510 0x00#8 ++ [0x22#8, 0xAA#8, 0x55#8, 0xFF#8]) with arg0 := 5#32, bufbase := 0x1000#32 })
    statusWord t = 0x148#32 ∧ t.xchgs = 524 ∧ t.mem = [(0x1000, 0x11#8), (0x11FF, 0x22#8)] := by decide +kernel

/-- V-RDN-4: a count of 0; CMD12 follows CMD18. -/
theorem test_rdn_zero : let t := after (exec .rdn { ready .sdscV1 ([0xFF#8] ++ reply 0x00#8 ++ List.replicate 7 0xFF#8 ++ [0x00#8, 0xFF#8]) with arg0 := 3#32 })
    t.result = .ok ∧ t.xchgs = 17 ∧
    sent t = [0xFF#8, 0x52#8, 0x00#8, 0x00#8, 0x06#8, 0x00#8, 0x01#8, 0xFF#8] ++ bare 0x4C#8 ++ [0xFF#8, 0xFF#8, 0xFF#8] := by
  decide +kernel

/-- V-RDN-6: no token; CMD12 is sent, its exhaustion does not replace the cause. -/
theorem test_rdn_token : let t := after (exec .rdn { ready .sdhc ([0xFF#8] ++ reply 0x00#8 ++ List.replicate 3 0xFF#8 ++
      List.replicate 10 0xFF#8 ++ [0xFF#8]) with arg0 := 3#32, arg1 := 1#32 })
    t.result = .fail ∧ t.res = .failed .tokenFail ∧ t.xchgs = 22 := by decide +kernel

/-- V-WR1-5: CMD24 is rejected; no gap, no block. -/
theorem test_wr1_rejected : let t := after (exec .wr1 { ready .sdscV2 ([0xFF#8] ++ reply 0x01#8 ++ [0xFF#8]) with arg0 := 1#32 })
    statusWord t = 0x13A#32 ∧ t.xchgs = 9 ∧ t.lastDresp = 0x00#8 := by decide +kernel

/-- V-WR1-2: the block is rejected; no busy wait. -/
theorem test_wr1_crc : let t := after (exec .wr1 { ready .sdscV2 ([0xFF#8] ++ reply 0x00#8 ++ List.replicate 518 0xFF#8 ++ [0x0B#8, 0xFF#8]) with
      arg0 := 1#32, bufbase := 0x3000#32 })
    statusWord t = 0x13A#32 ∧ t.xchgs = 528 ∧ t.lastDresp = 0x0A#8 := by decide +kernel

/-- V-WRN-7: a count of 0; ACMD23, CMD25, the gap, 0xFD, one byte, the wait-ready. -/
theorem test_wrn_zero : let t := after (exec .wrn { ready .sdscV2 ([0xFF#8] ++ reply 0x00#8 ++ reply 0x00#8 ++ reply 0x00#8 ++
      List.replicate 7 0xFF#8) with arg0 := 1#32 })
    t.result = .ok ∧ t.xchgs = 29 ∧ sent t = [0xFF#8] ++ bare 0x77#8 ++ [0xFF#8] ++ bare 0x57#8 ++ [0xFF#8, 0x59#8, 0x00#8, 0x00#8, 0x02#8, 0x00#8,
      0x01#8, 0xFF#8, 0xFF#8, 0xFF#8, 0xFF#8, 0xFD#8, 0xFF#8, 0xFF#8, 0xFF#8] := by decide +kernel

/-- V-WRN-5b: the prefix is refused; CMD23 is not sent. -/
theorem test_wrn_prefix : let t := after (exec .wrn { ready .sdscV2 ([0xFF#8] ++ reply 0x05#8 ++ [0xFF#8]) with arg0 := 1#32, arg1 := 2#32 })
    t.result = .fail ∧ t.xchgs = 9 := by decide +kernel

/-- V-ERASE-1. -/
theorem test_erase : let t := after (exec .erase { ready .sdhc ([0xFF#8] ++ reply 0x00#8 ++ reply 0x00#8 ++ reply 0x00#8 ++
      [0x00#8, 0x00#8, 0xFF#8, 0xFF#8]) with arg0 := 10#32, arg1 := 20#32 })
    statusWord t = 0x148#32 ∧ t.xchgs = 26 ∧ sent t = [0xFF#8, 0x60#8, 0x00#8, 0x00#8, 0x00#8, 0x0A#8, 0x01#8, 0xFF#8, 0x61#8, 0x00#8, 0x00#8, 0x00#8,
      0x14#8, 0x01#8, 0xFF#8] ++ bare 0x66#8 ++ List.replicate 5 0xFF#8 := by decide +kernel

/-- V-ERASE-3, V-ERASE-3b: ILLEGAL on MMC, and the family test comes before the INIT_OK test. -/
theorem test_erase_mmc : statusWord (after (exec .erase (ready .mmc []))) = 0x11C#32 ∧
    statusWord (after (exec .erase { ready .mmc [] with initOk := false })) = 0x114#32 := by decide +kernel

/-- The CSD of V-CAP-1 and the CID of section 9. -/
def csd1 : List Byte :=
  [0x00#8, 0x26#8, 0x00#8, 0x32#8, 0x5F#8, 0x59#8, 0x83#8, 0xFF#8, 0xF6#8, 0xDB#8, 0xFF#8, 0x80#8, 0x16#8, 0x40#8, 0x00#8, 0x01#8]
def cid1 : List Byte :=
  [0x10#8, 0x11#8, 0x12#8, 0x13#8, 0x14#8, 0x15#8, 0x16#8, 0x17#8, 0x18#8, 0x19#8, 0x1A#8, 0x1B#8, 0x1C#8, 0x1D#8, 0x1E#8, 0x1F#8]

/-- V-INFO-1: CSD, CID and SCR of an SDSC_V1, the capacity and the block size. -/
theorem test_info : let t := after (exec .info { ready .sdscV1 ([0xFF#8] ++ reply 0x00#8 ++ [0xFE#8] ++ csd1 ++ [0xAA#8, 0x55#8, 0xFF#8] ++
      reply 0x00#8 ++ [0xFE#8] ++ cid1 ++ [0xAA#8, 0x55#8, 0xFF#8] ++ reply 0x00#8 ++ reply 0x00#8 ++
      [0xFE#8, 0x02#8, 0x35#8, 0x80#8, 0x00#8, 0x00#8, 0x00#8, 0x00#8, 0x00#8, 0xAA#8, 0x55#8, 0xFF#8]) with bufbase := 0x5000#32 })
    statusWord t = 0x128#32 ∧ t.xchgs = 81 ∧ t.capkb = 1048576#32 ∧ t.blksize = 512#32 ∧
    loadBytes 32 t.mem 0x5000 40 = csd1 ++ cid1 ++ [0x02#8, 0x35#8, 0x80#8, 0x00#8, 0x00#8, 0x00#8, 0x00#8, 0x00#8] := by decide +kernel

/-- V-INFO-2: an MMC has no SCR. -/
theorem test_info_mmc : let t := after (exec .info { ready .mmc ([0xFF#8] ++ reply 0x00#8 ++ [0xFE#8] ++ csd1 ++ [0xAA#8, 0x55#8, 0xFF#8] ++
      reply 0x00#8 ++ [0xFE#8] ++ cid1 ++ [0xAA#8, 0x55#8, 0xFF#8]) with bufbase := 0x5000#32 })
    statusWord t = 0x118#32 ∧ t.xchgs = 55 ∧ t.capkb = 1048576#32 := by decide +kernel

/-- V-STAT-1, its payload zeros but for the last byte. -/
theorem test_stat : let t := after (exec .stat { ready .sdhc ([0xFF#8] ++ reply 0x00#8 ++ reply 0x00#8 ++ [0x00#8, 0xFE#8] ++
      List.replicate 63 0x00#8 ++ [0x77#8, 0xAA#8, 0x55#8, 0xFF#8]) with bufbase := 0x6000#32 })
    statusWord t = 0x148#32 ∧ t.xchgs = 84 ∧ t.mem = [(0x603F, 0x77#8)] := by decide +kernel

/-- V-STAT-2. -/
theorem test_stat_mmc : statusWord (after (exec .stat (ready .mmc []))) = 0x11C#32 := by decide +kernel

/-- V-REQ-1, V-REQ-2: a reserved operation fails with no exchange. -/
theorem test_reserved : ∀ i ∈ [Instr.reserved0, .reservedB, .reservedC, .reservedD, .reservedE, .reservedF],
    statusWord (after (exec i (ready .sdscV2 []))) = 0x13A#32 ∧ (after (exec i (ready .sdscV2 []))).xchgs = 0 := by decide +kernel

/-- V-FR-1 to V-FR-20: the frame each command row sends. -/
theorem test_frames : ∀ c ∈ [(Instr.cmd0 0#32 0x4A#7, [0x40#8, 0x00#8, 0x00#8, 0x00#8, 0x00#8, 0x95#8]),
      (.cmd8 0x1AA#32 0x43#7, [0x48#8, 0x00#8, 0x00#8, 0x01#8, 0xAA#8, 0x87#8]), (.cmd55 0#32 0#7, bare 0x77#8),
      (.acmd41 0x40000000#32 0#7, [0x69#8, 0x40#8, 0x00#8, 0x00#8, 0x00#8, 0x01#8]), (.cmd1 0#32 0#7, bare 0x41#8),
      (.cmd58 0#32 0#7, bare 0x7A#8), (.cmd16 0x200#32 0#7, [0x50#8, 0x00#8, 0x00#8, 0x02#8, 0x00#8, 0x01#8]),
      (.cmd17 0xA00#32 0#7, [0x51#8, 0x00#8, 0x00#8, 0x0A#8, 0x00#8, 0x01#8]),
      (.cmd18 0x600#32 0#7, [0x52#8, 0x00#8, 0x00#8, 0x06#8, 0x00#8, 0x01#8]),
      (.cmd24 0x200#32 0#7, [0x58#8, 0x00#8, 0x00#8, 0x02#8, 0x00#8, 0x01#8]),
      (.cmd23 2#32 0#7, [0x57#8, 0x00#8, 0x00#8, 0x00#8, 0x02#8, 0x01#8]),
      (.cmd25 100#32 0#7, [0x59#8, 0x00#8, 0x00#8, 0x00#8, 0x64#8, 0x01#8]),
      (.cmd32 10#32 0#7, [0x60#8, 0x00#8, 0x00#8, 0x00#8, 0x0A#8, 0x01#8]),
      (.cmd33 20#32 0#7, [0x61#8, 0x00#8, 0x00#8, 0x00#8, 0x14#8, 0x01#8]), (.cmd38 0#32 0#7, bare 0x66#8),
      (.cmd9 0#32 0#7, bare 0x49#8), (.cmd10 0#32 0#7, bare 0x4A#8), (.acmd51 0#32 0#7, bare 0x73#8), (.acmd13 0#32 0#7, bare 0x4D#8)],
    sent (after (exec c.1 (fresh (reply 0x00#8)))) = c.2 ++ [0xFF#8] := by decide +kernel

/-- V-CMD-4, V-CMD-5: a response on the last poll; and an exhausted poll, whose next byte is never read. -/
theorem test_cmd17 : (after (exec (.cmd17 0#32 0#7) (fresh (List.replicate 6 0xFF#8 ++ [0xC1#8, 0xFF#8, 0x05#8])))).lastR1 = 0x05#8 ∧
    (after (exec (.cmd17 0#32 0#7) (fresh (List.replicate 9 0xFF#8 ++ [0x00#8])))).card = [0x00#8] := by decide +kernel

/-- V-CMD-6: CMD12's stuff byte is discarded, although its bit 7 is 0. -/
theorem test_cmd12 : let t := after (exec (.cmd12 0#32 0#7) (fresh (List.replicate 6 0xFF#8 ++ [0x00#8, 0xFF#8, 0x00#8])))
    t.lastR1 = 0x00#8 ∧ t.xchgs = 9 ∧ sent t = bare 0x4C#8 ++ [0xFF#8, 0xFF#8, 0xFF#8] := by decide +kernel

/-- R77: the response byte, filler sent. -/
theorem test_r1 : let t := after (exec (.r1 0x05#7) (fresh [])); t.lastR1 = 0x05#8 ∧ t.trace = [.xchg 0xFF#8 0x05#8] := by decide +kernel

/-- R81: the three tokens. -/
theorem test_tokens : sent (after (exec .tokenStartBlock (fresh [0x00#8]))) = [0xFE#8] ∧
    sent (after (exec .tokenMultiWrite (fresh [0x00#8]))) = [0xFC#8] ∧ sent (after (exec .tokenStopTran (fresh [0x00#8]))) = [0xFD#8] := by
  decide +kernel

/-- V-DRS-1, V-DRS-4, V-DRS-5: the masked data response. -/
theorem test_dresp : (after (exec (.drespAccepted 0xE#4 1#1) (fresh []))).lastDresp = 0x04#8 ∧
    (after (exec (.drespCrcRejected 0#4 1#1) (fresh []))).lastDresp = 0x0A#8 ∧
    (after (exec (.drespWriteError 0#4 1#1) (fresh []))).lastDresp = 0x0C#8 := by decide +kernel

/-! ### Steps -/

/-- A requester's write of ARG0 while RD1 runs changes ARG0, and not the frame (V-REQ-6). -/
theorem test_latched : let t := after (exec .rd1 { ready .sdhc ([0xFF#8] ++ reply 0x01#8 ++ [0xFF#8]) with
      arg0 := 5#32, inbox := [{ wait := 2, input := .access { offset := 0x08, width := 32, write := some 9#32 } }] })
    t.arg0 = 9#32 ∧ sent t = [0xFF#8, 0x51#8, 0x00#8, 0x00#8, 0x00#8, 0x05#8, 0x01#8, 0xFF#8, 0xFF#8] := by decide +kernel

/-- V-RST-2: a reset after Select and some exchanges: the select, the exchanges, a deselect without a trailing byte. -/
theorem test_reset_running : let t := after (exec .rd1 { ready .sdhc (List.replicate 20 0xFF#8) with
      inbox := [{ wait := 7, input := .reset }] })
    statusWord t = 0x000#32 ∧ t.cs = false ∧ selects t.trace.reverse = [true, false] ∧ t.trace.head? = some .deselect := by decide +kernel

/-- An idle block with one requester access due. -/
def accessed (a : Access) : State := { ready .sdscV2 [] with rdata := 7#32, inbox := [{ wait := 0, input := .access a }] }

/-- V-REQ-3, V-REQ-8: START = 0 has no effect; a reserved offset reads 0. -/
theorem test_accesses :
    after (step (accessed { offset := 0, width := 32, write := some 0x00000004#32 })) = { ready .sdscV2 [] with rdata := 7#32 } ∧
    (after (step (accessed { offset := 0x1C, width := 32, write := none }))).rdata = 0#32 := by decide +kernel

/-- V-REQ-9: a 16-bit access is refused. -/
theorem test_access_refused :
    step (accessed { offset := 0, width := 16, write := none }) = .refused .accessOutsideInterface := rfl

/-- A word placed for the next step runs as that instruction (V-REQ-4). -/
theorem test_fetch : statusWord (after (step ((ready .sdscV2 ([0x00#8, 0x00#8, 0x00#8, 0xFF#8])).withFetchWord 32 0xFFFFFFF4))) = 0x13A#32 ∧
    (after (step ((fresh []).withFetchWord 8 0x05))).lastDresp = 0x04#8 := by decide +kernel

/-- R201: V-CAP-2 and V-CAP-4. -/
theorem test_capacity : capacityKB #v[0x40#8, 0x0E#8, 0x00#8, 0x32#8, 0x5B#8, 0x59#8, 0x00#8, 0x00#8, 0x3B#8, 0x37#8, 0x7F#8, 0x80#8, 0x0A#8, 0x40#8,
      0x00#8, 0x01#8] = 7761920#32 ∧ capacityKB (.replicate 16 0x00#8) = 0#32 := by decide +kernel


/-- R33, R55: SEQ stands at the statement that is running, here the DataReceive of RDN (line 8) and the MemWrite of INFO's CSD loop
(line 9) whose byte the platform does not admit. -/
theorem test_seq_stuck : let s := { ready .sdhc ([0xFF#8] ++ reply 0x00#8 ++ [0xFE#8, 0x5A#8]) with
      arg1 := 1#32, cfg := { tcfg with noWrite := [{ base := 0, size := 1 }] } }
    (after (exec .rdn s)).seq = .body 8 1 ∧ (after (exec .info s)).seq = .body 9 1 ∧ (after (exec .info s)).busy = true := by
  decide +kernel

/-- R64, R255: where both sides write one byte, either value may stand, here by the choice 0 or 1; and a requester's read may then
give the other of the two, here the block's value 0x02 after the requester's 0x03 stands. -/
theorem test_race_writes : let s := { fresh [] with busy := true, mem := [(5, 0x02#8)], blkOld := [(5, 0x01#8)] }
    (requesterWrite { s with picks := [0] } 5 0x03#8).mem = [(5, 0x03#8)] ∧ (requesterWrite { s with picks := [1] } 5 0x03#8).mem = [(5, 0x02#8)] ∧
    (requesterRead (requesterWrite { s with picks := [0, 1] } 5 0x03#8) 5).rdata = 0x02#32 := by decide +kernel

/-- R261 under TCFG: WRN of no sector, and one command less on an MMC; a request that a pre-check ends exchanges nothing. -/
theorem test_bounds : worstExchanges (ready .sdhc []) .wrn = 39 ∧ worstExchanges (ready .mmc []) .wrn = 30 ∧
    worstExchanges (ready .mmc []) .erase = 0 ∧ worstExchanges (fresh []) .rd1 = 0 := by decide +kernel

/-- R41: a STATUS read that lands in the first statements of a new INIT never sees INIT_OK = 1 with FAMILY = 0: before them it reads
FAMILY 3 and INIT_OK 1, after them neither. -/
theorem test_reinit_status :
    let read (k : Nat) := (after (exec .init { fresh (List.replicate 40 0xFF#8) with
      cfg := { tcfg with rampUpBytes := 1 }, family := .sdscV2, initOk := true,
      inbox := [{ wait := k, input := .access { offset := 0x04, width := 32, write := none } }] })).rdata
    read 0 = 0x39#32 ∧ read 1 = 0x01#32 ∧ read 2 = 0x01#32 := by decide +kernel
/-! ### Witnesses: for each statement with hypotheses, a state and operands that meet them together -/

/-- A response on the first poll. -/
theorem commandReply_first (s : State) (idx r : Byte) (hi : idx ≠ 12#8) (ht : s.cfg.cmdRespTries = 3)
    (hr : responsePresent r = true) : CommandReply s idx r (reply r) :=
  ⟨List.replicate 6 0xFF#8, [], by simp [hi], by simp [ht], by simp, .inl hr, rfl⟩

/-- A response on the last poll the bound allows. -/
theorem commandReply_last (s : State) (idx r : Byte) (hi : idx ≠ 12#8) (ht : s.cfg.cmdRespTries = 3)
    (hr : responsePresent r = true) : CommandReply s idx r (List.replicate 6 0xFF#8 ++ [0xFF#8, 0x80#8] ++ [r]) :=
  ⟨List.replicate 6 0xFF#8, [0xFF#8, 0x80#8], by simp [hi], by simp [ht], by decide, .inl hr, rfl⟩

/-- An exhausted poll. -/
theorem commandReply_exhausted (s : State) (idx : Byte) (hi : idx ≠ 12#8) (ht : s.cfg.cmdRespTries = 3) :
    CommandReply s idx 0xFF#8 (List.replicate 6 0xFF#8 ++ [0xFF#8, 0x80#8] ++ [0xFF#8]) :=
  ⟨List.replicate 6 0xFF#8, [0xFF#8, 0x80#8], by simp [hi], by simp [ht], by decide, .inr (by simp [ht]), rfl⟩

/-- CMD12's reply: the stuff byte, then a response on the first poll. -/
theorem commandReply_stop (s : State) (r : Byte) (ht : s.cfg.cmdRespTries = 3) (hr : responsePresent r = true) :
    CommandReply s 12#8 r (List.replicate 7 0xFF#8 ++ [] ++ [r]) :=
  ⟨List.replicate 7 0xFF#8, [], by simp, by simp [ht], by simp, .inl hr, rfl⟩

/-- A wait for the idle byte that fails on every read the bound allows. -/
theorem waitExhausted_three (n : Nat) (h : n = 3) : WaitExhausted n [0x00#8, 0xFE#8, 0x00#8] := ⟨by simp [h], by decide⟩

/-- A wait that ends on the last read the bound allows (V-W-2). -/
theorem idleReply_last (s : State) (ht : s.cfg.idleWaitTries = 3) : IdleReply s ([0x00#8, 0x00#8] ++ [0xFF#8]) :=
  ⟨[0x00#8, 0x00#8], by simp [ht], by decide, by decide, rfl⟩

/-- A wait that ends on its first read (V-W-1). -/
theorem idleReply_first (s : State) (ht : s.cfg.idleWaitTries = 3) : IdleReply s [0xFF#8] :=
  ⟨[], by simp [ht], by simp, by decide, rfl⟩

/-- A token on the last read the bound allows (V-W-6). -/
theorem tokenReply_last (s : State) (tok : Byte) (ht : s.cfg.tokenWaitTries = 3) (hk : tokenArrived tok = true) :
    TokenReply s tok ([0xFF#8, 0xFF#8] ++ [tok]) := ⟨[0xFF#8, 0xFF#8], by simp [ht], by decide, hk, rfl⟩

/-- No start token: another token on the last read the bound allows, and none at all (V-RD1-5). -/
theorem noStartToken_both (s : State) (ht : s.cfg.tokenWaitTries = 3) :
    ∀ l ∈ [[0xFF#8, 0xFF#8] ++ [0x08#8], List.replicate 3 0xFF#8], NoStartToken s l := by
  intro l hl
  simp only [List.mem_cons, List.not_mem_nil, or_false] at hl
  rcases hl with rfl | rfl
  · exact .inl ⟨0x08#8, by decide, tokenReply_last s _ ht (by decide)⟩
  · exact .inr ⟨by simp [ht], by decide⟩

/-- A block the card sends, its token on the last read the bound allows. -/
def blockIn (n : Nat) : BlockIn :=
  { wait := [0xFF#8, 0xFF#8] ++ [0xFE#8], payload := List.replicate n 0x5A#8, crc := [0xAA#8, 0x55#8] }

theorem blockIn_good (s : State) (n : Nat) (ht : s.cfg.tokenWaitTries = 3) : (blockIn n).Good s n :=
  ⟨tokenReply_last s _ ht (by decide), by simp [blockIn], rfl⟩

/-- A block the card receives, with this data response and these busy bytes. -/
def blockOut (d : Byte) (busy : List Byte) : BlockOut :=
  { token := 0xFF#8, payload := List.replicate 512 0xFF#8, crc := [0xFF#8, 0xFF#8], dresp := d, busy := busy }

theorem blockOut_length (d : Byte) (busy : List Byte) : (blockOut d busy).payload.length = 512 := List.length_replicate

theorem blockOut_good (s : State) (ht : s.cfg.writeBusyTries = 3) : (blockOut 0xE5#8 ([0x00#8, 0x00#8] ++ [0xFF#8])).Good s :=
  ⟨blockOut_length _ _, rfl, by decide, ⟨[0x00#8, 0x00#8], by simp [ht], by decide, by decide, rfl⟩⟩

theorem witness_EncodeOfDecode :
    decode (.wire .command (bare 0x77#8)) = .ok (.cmd55 0#32 0#7) ∧
    (∃ b, (bare 0x77#8).getLast? = some b ∧ b.getLsbD 0 = true) ∧
    decode (.wire .dataResponse [0xE5#8]) = .ok (.drespAccepted 0xE#4 1#1) := ⟨rfl, ⟨0x01#8, rfl, by decide⟩, rfl⟩

theorem witness_EveryRequestDecodes : (0x80000000#32).msb = true ∧ (0xFFFFFFFF#32).msb = true := by decide

theorem witness_StepRunsDecoded :
    (∃ s : State, s.seq.fetch? = none ∧
      s.inbox = { wait := 0, input := .access { offset := 0x00, width := 32, write := some 0x80000004#32 } } :: []) ∧
    decode (.request 0x80000004#32) = .ok .rd1 ∧ (∃ s : State, s.seq = .wire .token [0xFE#8]) ∧
    decode (.wire .token [0xFE#8]) = .ok .tokenStartBlock :=
  ⟨⟨accessed { offset := 0, width := 32, write := some 0x80000004#32 }, rfl, rfl⟩, rfl,
    ⟨{ fresh [] with seq := .wire .token [0xFE#8] }, rfl⟩, rfl⟩

/-- Each of the seven offsets, read and written. -/
theorem witness_RegisterWindow : ∀ offset ∈ [0x00, 0x04, 0x08, 0x0C, 0x10, 0x14, 0x18], offset % 4 = 0 ∧
    (accessed { offset := offset, width := 32, write := none }).seq.fetch? = none ∧
    (accessed { offset := offset, width := 32, write := some 4#32 }).seq.fetch? = none ∧ (4#32).msb = false := by decide

theorem witness_ReservedOffsets : ∀ offset ∈ [0x1C, 0xFFFFFFFC], offset % 4 = 0 ∧ 0x18 < offset ∧
    (accessed { offset := offset, width := 32, write := none }).seq.fetch? = none := by decide

theorem witness_AccessOutsideRefused : ∀ a ∈ [{ offset := 0, width := 8, write := none }, { offset := 2, width := 32, write := some 0#32 }],
    (accessed a).seq.fetch? = none ∧ (a.width ≠ 32 ∨ a.offset % 4 ≠ 0) := by decide

theorem witness_ResetInput : ∃ s : State, s.seq.fetch? = none ∧ s.inbox = { wait := 0, input := .reset } :: [] ∧ s.cs = true :=
  ⟨{ fresh [] with cs := true, seq := .body 6 1, inbox := [{ wait := 0, input := .reset }] }, rfl, rfl, rfl⟩

theorem witness_ResetDuringOperation : ∃ s : State, Instr.rd1.opCode? = some 0x4#4 ∧ s.busy = false ∧ s.cs = false ∧
    preCheck 0x4#4 s = none := ⟨ready .sdhc [], rfl, rfl, rfl, rfl⟩

theorem witness_StartWhileBusyIgnored : ∃ s : State, s.busy = true ∧ Instr.wrn.opCode? = some 0x7#4 ∧ (0x80000007#32).msb = true :=
  ⟨{ fresh [] with busy := true }, rfl, rfl, by decide⟩

theorem witness_ReservedRequestsFail : (fresh []).busy = false := rfl

theorem witness_IllegalOnMmc : (ready .mmc []).busy = false ∧ (ready .mmc []).family = .mmc ∧ (ready .mmc []).initOk = true :=
  ⟨rfl, rfl, rfl⟩

/-- The first and the last of the data operations; STAT on a card that is no MMC. -/
theorem witness_NotInitializedFails : (fresh []).busy = false ∧ (fresh []).initOk = false ∧ (fresh []).family ≠ .mmc ∧
    Instr.rd1.opCode? = some 0x4#4 ∧ Instr.stat.opCode? = some 0xA#4 := by decide

theorem witness_DetectSamples : ∃ s : State, Quiet s ∧ s.busy = false ∧ s.cs = false := ⟨fresh [], rfl, rfl, rfl⟩

theorem witness_DeinitClears : ∃ s : State, Quiet s ∧ s.busy = false ∧ s.cs = false := ⟨ready .mmc [], rfl, rfl, rfl⟩

/-- What a card answers in the phases of INIT, put together; CMD0 is answered by 0x05 once. -/
theorem init_witness {cand f : Family} {p8 p55 p16 : List Part} (h8 : ∀ s : State, s.cfg = tcfg → VoltagePhase s cand p8)
    (h55 : ∀ s : State, s.cfg = tcfg → ResolvePhase s cand f p55) (h16 : ∀ s : State, s.cfg = tcfg → BlockLenPhase s f p16) :
    ∃ (s : State) (ramp : List Byte) (p0 p8 p55 p16 : List Part) (trail : Byte) (rest : List Byte), Quiet s ∧ s.busy = false ∧
      ramp.length = s.cfg.rampUpBytes ∧ IdlePhase s p0 ∧ VoltagePhase s cand p8 ∧ ResolvePhase s cand f p55 ∧
      BlockLenPhase s f p16 ∧ s.card = ramp ++ partsBytes (p0 ++ p8 ++ p55 ++ p16) ++ trail :: rest := by
  let p0 := ([reply 0x05#8] ++ [reply 0x01#8]).map (Part.command 0#8 0x00000000#32 0x95#8)
  refine ⟨fresh (List.replicate 2500 0xFF#8 ++ partsBytes (p0 ++ p8 ++ p55 ++ p16) ++ [0xFF#8]), List.replicate 2500 0xFF#8, p0, p8, p55,
    p16, 0xFF#8, [], rfl, rfl, List.length_replicate, ⟨[reply 0x05#8], reply 0x01#8, by show 1 < 3; decide, ?_, ?_, rfl⟩, h8 _ rfl, h55 _ rfl, h16 _ rfl, rfl⟩
  · intro l hl
    obtain rfl := List.mem_singleton.mp hl
    exact ⟨0x05#8, by decide, commandReply_first _ _ _ (by decide) rfl (by decide)⟩
  · exact commandReply_first _ _ _ (by decide) rfl (by decide)

/-- A card of each family, each with a voltage check that admits it; the SDSC_V2 candidates answer one wrong echo, and every card
but the first stays idle for one iteration (V-INIT-1). -/
theorem witness_InitClassifies : ∀ p ∈ [(Family.sdscV1, Family.mmc), (.sdscV2, .mmc), (.sdscV1, .sdscV1), (.sdscV2, .sdscV2), (.sdscV2, .sdhc)],
    ∃ (s : State) (ramp : List Byte) (p0 p8 p55 p16 : List Part) (trail : Byte) (rest : List Byte), Quiet s ∧ s.busy = false ∧
      ramp.length = s.cfg.rampUpBytes ∧ IdlePhase s p0 ∧ VoltagePhase s p.1 p8 ∧ ResolvePhase s p.1 p.2 p55 ∧
      BlockLenPhase s p.2 p16 ∧ s.card = ramp ++ partsBytes (p0 ++ p8 ++ p55 ++ p16) ++ trail :: rest := by
  have r : ∀ (s : State) (i b : Byte), s.cfg = tcfg → i ≠ 12#8 → responsePresent b = true → CommandReply s i b (reply b) :=
    fun s i b hs hi hb => commandReply_first s i b hi (by rw [hs]; rfl) hb
  have echo : ∀ (s : State) (e : Vector Byte 4), s.cfg = tcfg → EchoAttempt s (reply 0x01#8, e) :=
    fun s e hs => ⟨0x01#8, by decide, r s _ _ hs (by decide) (by decide)⟩
  have turn : ∀ s : State, s.cfg = tcfg → ActivateAttempt s true (reply 0x01#8, reply 0x01#8) ∧ ActivateAttempt s false (reply 0x01#8, reply 0x00#8) :=
    fun s hs => ⟨⟨⟨0x01#8, by decide, r s _ _ hs (by decide) (by decide)⟩, 0x01#8, by decide, r s _ _ hs (by decide) (by decide)⟩,
      ⟨0x01#8, by decide, r s _ _ hs (by decide) (by decide)⟩, 0x00#8, by decide, r s _ _ hs (by decide) (by decide)⟩
  have idle : ∀ s : State, s.cfg = tcfg → ∀ x ∈ [(reply 0x01#8, reply 0x01#8)], ActivateAttempt s true x := fun s hs x hx => by
    obtain rfl := List.mem_singleton.mp hx
    exact (turn s hs).1
  have short : ∀ (s : State) {α : Type} (x : α), s.cfg = tcfg → [x].length < s.cfg.vcheckTries ∧ [x].length < s.cfg.activateTries :=
    fun s _ _ hs => by rw [hs]; exact ⟨by show 1 < 2; decide, by show 1 < 3; decide⟩
  have none_ : ∀ s : State, s.cfg = tcfg → 0 < s.cfg.vcheckTries ∧ 0 < s.cfg.activateTries :=
    fun s hs => by rw [hs]; exact ⟨by show 0 < 2; decide, by show 0 < 3; decide⟩
  have v1 : ∀ s : State, s.cfg = tcfg → VoltagePhase s .sdscV1 _ := fun s hs =>
    ⟨[], (none_ s hs).1, (fun _ h => by cases h), .inl ⟨rfl, reply 0x05#8, 0x05#8, by decide, r s _ _ hs (by decide) (by decide), rfl⟩⟩
  have v2 : ∀ s : State, s.cfg = tcfg → VoltagePhase s .sdscV2 _ := fun s hs =>
    ⟨[(reply 0x01#8, #v[0x00#8, 0x00#8, 0x01#8, 0xAB#8])], (short s _ hs).1, (fun x hx => by
        obtain rfl := List.mem_singleton.mp hx
        exact ⟨echo s _ hs, by decide⟩),
      .inr ⟨rfl, (reply 0x01#8, #v[0x00#8, 0x00#8, 0x01#8, 0xAA#8]), echo s _ hs, rfl, rfl⟩⟩
  have mmc : ∀ (c : Family) (s : State), s.cfg = tcfg → ResolvePhase s c .mmc _ := fun c s hs =>
    ⟨[], (none_ s hs).2, (fun _ h => by cases h), reply 0x05#8, 0x05#8, [reply 0x01#8], reply 0x00#8, by decide,
      r s _ _ hs (by decide) (by decide), (short s _ hs).2,
      (fun l hl => by obtain rfl := List.mem_singleton.mp hl; exact ⟨0x01#8, by decide, r s _ _ hs (by decide) (by decide)⟩),
      (fun l hl => by obtain rfl := List.mem_singleton.mp hl; exact ⟨0x00#8, by decide, r s _ _ hs (by decide) (by decide)⟩), rfl⟩
  have len : ∀ (f : Family) (s : State), f ≠ .sdhc → s.cfg = tcfg → BlockLenPhase s f [.command 16#8 0x00000200#32 0x00#8 (reply 0x00#8)] :=
    fun f s hf hs => by
      rw [BlockLenPhase, if_neg hf]
      exact ⟨_, r s _ _ hs (by decide) (by decide), rfl⟩
  intro p hp
  simp only [List.mem_cons, List.not_mem_nil, or_false] at hp
  rcases hp with rfl | rfl | rfl | rfl | rfl
  · exact init_witness v1 (mmc _) (fun s hs => len _ s (by decide) hs)
  · exact init_witness v2 (mmc _) (fun s hs => len _ s (by decide) hs)
  · exact init_witness v1 (fun s hs => ⟨_, (short s _ hs).2, idle s hs, rfl, _, (turn s hs).2, rfl⟩) (fun s hs => len _ s (by decide) hs)
  · exact init_witness v2 (fun s hs => ⟨_, (short s _ hs).2, idle s hs, rfl, _, reply 0x00#8, 0x00#8, #v[0x80#8, 0xFF#8, 0x80#8, 0x00#8],
      (turn s hs).2, r s _ _ hs (by decide) (by decide), by decide, rfl⟩) (fun s hs => len _ s (by decide) hs)
  · exact init_witness v2 (fun s hs => ⟨_, (short s _ hs).2, idle s hs, rfl, _, reply 0x00#8, 0x00#8, #v[0xC0#8, 0xFF#8, 0x80#8, 0x00#8],
      (turn s hs).2, r s _ _ hs (by decide) (by decide), by decide, rfl⟩) (fun _ _ => rfl)

/-- The family a cause leaves, in the failing runs of `witness_InitFailures`. -/
def failedFamily : Cause → Family
  | .activateTimeout => .sdscV1
  | .mmcActivateTimeout => .mmc
  | .blocklenRejected => .sdscV1
  | .idleTimeout | .vcheckMismatch | .reservedOp | .notInit | .readyTimeout | .cmdRejected | .tokenFail | .dataRejected
  | .writeBusyTimeout | .eraseBusyTimeout | .stopRejected | .setblkcntRejected | .familyUnsupported => .none

/-- Each failing exit: no card (V-INIT-5), no echo, ACMD41 and CMD1 that leave the card idle, CMD16 rejected. -/
theorem witness_InitFailures : ∀ c ∈ [Cause.idleTimeout, .vcheckMismatch, .activateTimeout, .mmcActivateTimeout, .blocklenRejected],
    ∃ (s : State) (ramp : List Byte) (ps : List Part) (trail : Byte) (rest : List Byte), Quiet s ∧ s.busy = false ∧
      ramp.length = s.cfg.rampUpBytes ∧ InitFails s (failedFamily c) ps c ∧ s.card = ramp ++ partsBytes ps ++ trail :: rest := by
  have go : ∀ (c : Cause) (ps : List Part), (∀ s : State, s.cfg = tcfg → InitFails s (failedFamily c) ps c) →
      ∃ (s : State) (ramp : List Byte) (ps : List Part) (trail : Byte) (rest : List Byte), Quiet s ∧ s.busy = false ∧
        ramp.length = s.cfg.rampUpBytes ∧ InitFails s (failedFamily c) ps c ∧ s.card = ramp ++ partsBytes ps ++ trail :: rest :=
    fun c ps h => ⟨fresh (List.replicate 2500 0xFF#8 ++ partsBytes ps ++ [0xFF#8]), List.replicate 2500 0xFF#8, ps, 0xFF#8, [], rfl, rfl,
      List.length_replicate, h _ rfl, rfl⟩
  have r : ∀ (s : State) (i b : Byte), s.cfg = tcfg → i ≠ 12#8 → responsePresent b = true → CommandReply s i b (reply b) :=
    fun s i b hs hi hb => commandReply_first s i b hi (by rw [hs]; rfl) hb
  have p0 : ∀ s : State, s.cfg = tcfg → IdlePhase s _ := fun s hs =>
    ⟨[], reply 0x01#8, by rw [hs]; show 0 < 3; decide, (fun _ h => by cases h), r s _ _ hs (by decide) (by decide), rfl⟩
  have p8 : ∀ s : State, s.cfg = tcfg → VoltagePhase s .sdscV1 _ := fun s hs =>
    ⟨[], by rw [hs]; show 0 < 2; decide, (fun _ h => by cases h), .inl ⟨rfl, reply 0x05#8, 0x05#8, by decide, r s _ _ hs (by decide) (by decide), rfl⟩⟩
  have turn : ∀ (s : State) (idle : Bool) (b : Byte), s.cfg = tcfg → b.getLsbD 0 = idle → responsePresent b = true →
      ActivateAttempt s idle (reply 0x01#8, reply b) :=
    fun s idle b hs hb hp => ⟨⟨0x01#8, by decide, r s _ _ hs (by decide) (by decide)⟩, b, hb, r s _ _ hs (by decide) hp⟩
  intro c hc
  simp only [List.mem_cons, List.not_mem_nil, or_false] at hc
  rcases hc with rfl | rfl | rfl | rfl | rfl
  · let l : List Byte := List.replicate 6 0xFF#8 ++ [0xFF#8, 0x80#8] ++ [0xFF#8]
    exact go _ _ fun s hs => ⟨rfl, List.replicate 3 l, by rw [hs]; rfl, fun x hx => by
      rw [List.eq_of_mem_replicate hx]
      exact ⟨0xFF#8, by decide, commandReply_exhausted _ _ (by decide) (by rw [hs]; rfl)⟩, rfl⟩
  · exact go _ _ fun s hs => ⟨rfl, _, List.replicate 2 (reply 0x01#8, #v[0x00#8, 0x00#8, 0x01#8, 0xAB#8]), p0 s hs, by rw [hs]; rfl, fun x hx => by
      rw [List.eq_of_mem_replicate hx]
      exact ⟨⟨0x01#8, by decide, r s _ _ hs (by decide) (by decide)⟩, by decide⟩, rfl⟩
  · exact go _ _ fun s hs => ⟨_, _, List.replicate 3 (reply 0x01#8, reply 0x01#8), p0 s hs, p8 s hs, by rw [hs]; rfl, fun x hx => by
      rw [List.eq_of_mem_replicate hx]
      exact turn s true 0x01#8 hs (by decide) (by decide), rfl⟩
  · exact go _ _ fun s hs => ⟨rfl, .sdscV1, _, _, [], reply 0x05#8, 0x05#8, List.replicate 3 (reply 0x01#8), p0 s hs, p8 s hs,
      by rw [hs]; show 0 < 3; decide, (fun _ h => by cases h), by decide, r s _ _ hs (by decide) (by decide), by rw [hs]; rfl, fun x hx => by
        rw [List.eq_of_mem_replicate hx]
        exact ⟨0x01#8, by decide, r s _ _ hs (by decide) (by decide)⟩, rfl⟩
  · exact go _ _ fun s hs => ⟨by decide, .sdscV1, _, _, _, reply 0x04#8, 0x04#8, p0 s hs, p8 s hs,
      ⟨[], by rw [hs]; show 0 < 3; decide, (fun _ h => by cases h), rfl, _, turn s false 0x00#8 hs (by decide) (by decide), rfl⟩,
      by decide, r s _ _ hs (by decide) (by decide), rfl⟩

theorem witness_InitOutcomes : ∃ s : State, Quiet s ∧ s.busy = false := ⟨State.reset, rfl, rfl⟩

theorem witness_InitRampsUp : ∃ s : State, Quiet s ∧ s.busy = false := ⟨State.reset, rfl, rfl⟩

/-- V-RD1-9: every bound hit exactly. -/
theorem witness_Rd1ReadsSector : ∃ (s : State) (w c : List Byte) (b : BlockIn) (trail : Byte) (rest : List Byte), Quiet s ∧ Ready s ∧
    WritesAdmitted s s.bufbase.toNat 512 ∧ IdleReply s w ∧ CommandReply s 17#8 0x00#8 c ∧ b.Good s 512 ∧
    s.card = w ++ c ++ b.bytes ++ trail :: rest :=
  ⟨ready .sdscV2 (([0x00#8, 0x00#8] ++ [0xFF#8]) ++ (List.replicate 6 0xFF#8 ++ [0xFF#8, 0x80#8] ++ [0x00#8]) ++ (blockIn 512).bytes ++ [0xFF#8]),
    _, _, blockIn 512, 0xFF#8, [], rfl, ⟨rfl, rfl⟩, fun _ _ => rfl, idleReply_last _ rfl,
    commandReply_last _ _ _ (by decide) rfl (by decide), blockIn_good _ _ rfl, rfl⟩

/-- Another token, and none within the bound. -/
theorem witness_Rd1WrongToken : ∀ t ∈ [[0xFF#8, 0xFF#8] ++ [0x08#8], List.replicate 3 0xFF#8],
    ∃ (s : State) (w c : List Byte) (trail : Byte) (rest : List Byte), Quiet s ∧ Ready s ∧ IdleReply s w ∧
      CommandReply s 17#8 0x00#8 c ∧ NoStartToken s t ∧ s.card = w ++ c ++ t ++ trail :: rest :=
  fun t ht => ⟨ready .sdhc ([0xFF#8] ++ reply 0x00#8 ++ t ++ [0xFF#8]), _, _, 0xFF#8, [], rfl, ⟨rfl, rfl⟩,
    idleReply_first _ rfl, commandReply_first _ _ _ (by decide) rfl (by decide), noStartToken_both _ rfl t ht, rfl⟩

/-- Two sectors, and none. -/
theorem witness_RdnReadsSectors : ∀ bs ∈ [[blockIn 512, blockIn 512], []], ∃ (s : State) (w c12 c18 : List Byte) (trail : Byte) (rest : List Byte),
    Quiet s ∧ Ready s ∧ WritesAdmitted s s.bufbase.toNat (512 * s.arg1.toNat) ∧ IdleReply s w ∧ CommandReply s 18#8 0x00#8 c18 ∧
    bs.length = s.arg1.toNat ∧ (∀ b ∈ bs, b.Good s 512) ∧ CommandReply s 12#8 0x00#8 c12 ∧
    s.card = w ++ c18 ++ (bs.map BlockIn.bytes).flatten ++ c12 ++ trail :: rest := by
  intro bs hbs
  refine ⟨{ ready .sdhc ([0xFF#8] ++ reply 0x00#8 ++ (bs.map BlockIn.bytes).flatten ++ (List.replicate 7 0xFF#8 ++ [] ++ [0x00#8]) ++ [0xFF#8]) with
      arg1 := BitVec.ofNat 32 bs.length }, _, _, _, 0xFF#8, [], rfl, ⟨rfl, rfl⟩, fun _ _ => rfl, idleReply_first _ rfl,
    commandReply_first _ _ _ (by decide) rfl (by decide), ?_, ?_, commandReply_stop _ _ rfl (by decide), rfl⟩
  · simp only [List.mem_cons, List.not_mem_nil, or_false] at hbs
    rcases hbs with rfl | rfl <;> rfl
  · simp only [List.mem_cons, List.not_mem_nil, or_false] at hbs
    rcases hbs with rfl | rfl
    · intro b hb
      obtain rfl : b = blockIn 512 := by simpa using hb
      exact blockIn_good _ _ rfl
    · intro b hb
      cases hb

/-- Another token before the second sector, no token before the first (V-RDN-6), and a rejected stop after the last (V-RDN-3). -/
theorem witness_RdnFailureCloses : ∀ p ∈ [(Cause.tokenFail, 2, [blockIn 512], [0xFF#8, 0xFF#8] ++ [0x08#8]),
      (.tokenFail, 1, [], List.replicate 3 0xFF#8), (.stopRejected, 1, [blockIn 512], [])],
    ∃ (s : State) (w c12 c18 : List Byte) (r12 trail : Byte) (rest : List Byte), Quiet s ∧ Ready s ∧ s.arg1.toNat = p.2.1 ∧
      WritesAdmitted s s.bufbase.toNat (512 * s.arg1.toNat) ∧ IdleReply s w ∧ CommandReply s 18#8 0x00#8 c18 ∧
      (∀ b ∈ p.2.2.1, b.Good s 512) ∧ RdnFails s p.2.2.1.length s.arg1.toNat p.2.2.2 r12 p.1 ∧ CommandReply s 12#8 r12 c12 ∧
      s.card = w ++ c18 ++ (p.2.2.1.map BlockIn.bytes).flatten ++ p.2.2.2 ++ c12 ++ trail :: rest := by
  intro p hp
  refine ⟨{ ready .sdhc ([0xFF#8] ++ reply 0x00#8 ++ (p.2.2.1.map BlockIn.bytes).flatten ++ p.2.2.2 ++
      (List.replicate 7 0xFF#8 ++ [] ++ [0x04#8]) ++ [0xFF#8]) with arg1 := BitVec.ofNat 32 p.2.1 }, _, _, _, 0x04#8, 0xFF#8, [], rfl,
    ⟨rfl, rfl⟩, ?_, fun _ _ => rfl, idleReply_first _ rfl, commandReply_first _ _ _ (by decide) rfl (by decide), ?_, ?_,
    commandReply_stop _ _ rfl (by decide), rfl⟩
  all_goals
    simp only [List.mem_cons, List.not_mem_nil, or_false] at hp
    rcases hp with rfl | rfl | rfl
  any_goals rfl
  any_goals
    intro b hb
    simp only [List.mem_cons, List.not_mem_nil, or_false] at hb
  · rw [hb]
    exact blockIn_good _ _ rfl
  · rw [hb]
    exact blockIn_good _ _ rfl
  · exact .inl ⟨rfl, by decide, noStartToken_both _ rfl _ (by decide)⟩
  · exact .inl ⟨rfl, by decide, noStartToken_both _ rfl _ (by decide)⟩
  · exact .inr ⟨rfl, rfl, rfl, by decide⟩

theorem witness_Wr1WritesSector : ∃ (s : State) (w c gap : List Byte) (b : BlockOut) (trail : Byte) (rest : List Byte), Quiet s ∧ Ready s ∧
    ReadsAdmitted s s.bufbase.toNat 512 ∧ IdleReply s w ∧ CommandReply s 24#8 0x00#8 c ∧ gap.length = s.cfg.writeGapBytes ∧ b.Good s ∧
    s.card = w ++ c ++ gap ++ b.bytes ++ trail :: rest :=
  ⟨ready .sdscV2 ([0xFF#8] ++ reply 0x00#8 ++ [0xFF#8, 0xFF#8, 0xFF#8] ++ (blockOut 0xE5#8 ([0x00#8, 0x00#8] ++ [0xFF#8])).bytes ++ [0xFF#8]), _, _, _,
    blockOut 0xE5#8 ([0x00#8, 0x00#8] ++ [0xFF#8]), 0xFF#8, [], rfl, ⟨rfl, rfl⟩, fun _ _ => rfl, idleReply_first _ rfl,
    commandReply_first _ _ _ (by decide) rfl (by decide), rfl, blockOut_good _ rfl, rfl⟩

theorem witness_Wr1DataRejected : ∃ (s : State) (w c gap : List Byte) (b : BlockOut) (trail : Byte) (rest : List Byte), Quiet s ∧ Ready s ∧
    ReadsAdmitted s s.bufbase.toNat 512 ∧ IdleReply s w ∧ CommandReply s 24#8 0x00#8 c ∧ gap.length = s.cfg.writeGapBytes ∧
    b.payload.length = 512 ∧ b.crc.length = 2 ∧ b.busy = [] ∧ b.dresp &&& 0x0E#8 ≠ 0x04#8 ∧
    s.card = w ++ c ++ gap ++ b.bytes ++ trail :: rest :=
  ⟨ready .sdscV2 ([0xFF#8] ++ reply 0x00#8 ++ [0xFF#8, 0xFF#8, 0xFF#8] ++ (blockOut 0x0D#8 []).bytes ++ [0xFF#8]), _, _, _, blockOut 0x0D#8 [], 0xFF#8, [], rfl,
    ⟨rfl, rfl⟩, fun _ _ => rfl, idleReply_first _ rfl, commandReply_first _ _ _ (by decide) rfl (by decide), rfl, blockOut_length _ _, rfl, rfl,
    by decide, rfl⟩

/-- One block to an SDHC, whose count is announced with the prefix; and a count of 0 to an MMC, whose count is not announced. -/
theorem witness_WrnWritesSectors : ∀ p ∈ [(Family.sdhc, [blockOut 0xE5#8 ([0x00#8, 0x00#8] ++ [0xFF#8])], [reply 0x00#8, reply 0x00#8, reply 0x00#8]),
      (.mmc, [], [reply 0x00#8])], ∃ (s : State) (w gap w2 : List Byte) (a1 a2 trail : Byte) (rest : List Byte),
    Quiet s ∧ Ready s ∧ ReadsAdmitted s s.bufbase.toNat (512 * s.arg1.toNat) ∧ IdleReply s w ∧
    CommandReplies s (announceCommands s ++ [(25#8, adjust s.family s.arg0)]) p.2.2 ∧ gap.length = s.cfg.writeGapBytes ∧
    p.2.1.length = s.arg1.toNat ∧ (∀ b ∈ p.2.1, b.Good s) ∧ IdleReply s w2 ∧
    s.card = w ++ p.2.2.flatten ++ gap ++ (p.2.1.map BlockOut.bytes).flatten ++ [a1, a2] ++ w2 ++ trail :: rest := by
  intro p hp
  have r : ∀ (s : State) (i b : Byte), i ≠ 12#8 → responsePresent b = true → s.cfg = tcfg → CommandReply s i b (reply b) :=
    fun s i b hi hb hs => commandReply_first s i b hi (by rw [hs]; rfl) hb
  refine ⟨{ ready p.1 ([0xFF#8] ++ p.2.2.flatten ++ [0xFF#8, 0xFF#8, 0xFF#8] ++ (p.2.1.map BlockOut.bytes).flatten ++ [0xFF#8, 0xFF#8] ++ [0xFF#8] ++ [0xFF#8]) with
      arg1 := BitVec.ofNat 32 p.2.1.length }, _, _, _, 0xFF#8, 0xFF#8, 0xFF#8, [], rfl, ⟨rfl, rfl⟩, fun _ _ => rfl, idleReply_first _ rfl, ?_, ?_, ?_, ?_,
    idleReply_first _ rfl, rfl⟩
  all_goals
    simp only [List.mem_cons, List.not_mem_nil, or_false] at hp
    rcases hp with rfl | rfl
  · exact ⟨r _ _ _ (by decide) (by decide) rfl, r _ _ _ (by decide) (by decide) rfl, r _ _ _ (by decide) (by decide) rfl, rfl⟩
  · exact ⟨r _ _ _ (by decide) (by decide) rfl, rfl⟩
  · rfl
  · rfl
  · rfl
  · rfl
  · intro b hb
    obtain rfl := List.mem_singleton.mp hb
    exact blockOut_good _ rfl
  · intro b hb
    cases hb

/-- The second block is rejected, its writing does not end, and the closing wait fails after the last one. -/
theorem witness_WrnFailureCloses : ∀ p ∈ [(Cause.dataRejected, 2, [blockOut 0x0B#8 []], [0xFF#8]),
      (.writeBusyTimeout, 2, [blockOut 0xE5#8 [0x00#8, 0xFE#8, 0x00#8]], [0x00#8, 0xFE#8, 0x00#8]), (.readyTimeout, 1, [], [0x00#8, 0xFE#8, 0x00#8])],
    ∃ (s : State) (w gap : List Byte) (cs : List (List Byte)) (bs : List BlockOut) (a1 a2 trail : Byte) (rest : List Byte),
      Quiet s ∧ Ready s ∧ s.arg1.toNat = p.2.1 ∧ ReadsAdmitted s s.bufbase.toNat (512 * s.arg1.toNat) ∧ IdleReply s w ∧
      CommandReplies s (announceCommands s ++ [(25#8, adjust s.family s.arg0)]) cs ∧ gap.length = s.cfg.writeGapBytes ∧
      (∀ b ∈ bs, b.Good s) ∧ WrnFails s bs.length s.arg1.toNat p.2.2.1 p.1 p.2.2.2 ∧
      s.card = w ++ cs.flatten ++ gap ++ ((bs ++ p.2.2.1).map BlockOut.bytes).flatten ++ [a1, a2] ++ p.2.2.2 ++ trail :: rest := by
  intro p hp
  let bs := [blockOut 0xE5#8 ([0x00#8, 0x00#8] ++ [0xFF#8])]
  let cs := [reply 0x00#8, reply 0x00#8, reply 0x00#8]
  refine ⟨{ ready .sdscV2 ([0xFF#8] ++ cs.flatten ++ [0xFF#8, 0xFF#8, 0xFF#8] ++ ((bs ++ p.2.2.1).map BlockOut.bytes).flatten ++ [0xFF#8, 0xFF#8] ++
      p.2.2.2 ++ [0xFF#8]) with arg1 := BitVec.ofNat 32 p.2.1 }, _, _, cs, bs, 0xFF#8, 0xFF#8, 0xFF#8, [], rfl, ⟨rfl, rfl⟩, ?_, fun _ _ => rfl,
    idleReply_first _ rfl, ⟨commandReply_first _ 55#8 _ (by decide) rfl (by decide), commandReply_first _ 23#8 _ (by decide) rfl (by decide),
      commandReply_first _ 25#8 _ (by decide) rfl (by decide), rfl⟩, rfl, ?_, ?_, rfl⟩
  · simp only [List.mem_cons, List.not_mem_nil, or_false] at hp
    rcases hp with rfl | rfl | rfl <;> rfl
  · intro b hb
    obtain rfl := List.mem_singleton.mp hb
    exact blockOut_good _ rfl
  · simp only [List.mem_cons, List.not_mem_nil, or_false] at hp
    rcases hp with rfl | rfl | rfl
    · exact .inl ⟨_, rfl, by decide, blockOut_length _ _, rfl, .inl ⟨rfl, by decide, rfl⟩, .inl (idleReply_first _ rfl)⟩
    · exact .inl ⟨_, rfl, by decide, blockOut_length _ _, rfl, .inr ⟨rfl, by decide, waitExhausted_three _ rfl⟩, .inr (waitExhausted_three _ rfl)⟩
    · exact .inr ⟨rfl, rfl, rfl, waitExhausted_three _ rfl⟩

theorem witness_EraseErases : ∃ (s : State) (w e : List Byte) (cs : List (List Byte)) (trail : Byte) (rest : List Byte), Quiet s ∧ Ready s ∧
    s.family ≠ .mmc ∧ IdleReply s w ∧
    CommandReplies s [(32#8, adjust s.family s.arg0), (33#8, adjust s.family s.arg1), (38#8, 0x00000000#32)] cs ∧
    WaitReply busIdle s.cfg.eraseBusyTries 0xFF#8 e ∧ s.card = w ++ cs.flatten ++ e ++ trail :: rest := by
  let cs := [reply 0x00#8, reply 0x00#8, reply 0x00#8]
  exact ⟨{ ready .sdscV1 ([0xFF#8] ++ cs.flatten ++ ([0x00#8, 0x00#8] ++ [0xFF#8]) ++ [0xFF#8]) with arg0 := 20#32, arg1 := 10#32 }, _, _, cs, 0xFF#8, [], rfl,
    ⟨rfl, rfl⟩, by decide, idleReply_first _ rfl,
    ⟨commandReply_first _ _ _ (by decide) rfl (by decide), commandReply_first _ _ _ (by decide) rfl (by decide),
      commandReply_first _ _ _ (by decide) rfl (by decide), rfl⟩,
    ⟨[0x00#8, 0x00#8], by decide, by decide, by decide, rfl⟩, rfl⟩

theorem witness_InfoOnMmc : ∃ (s : State) (w1 w2 c9 c10 : List Byte) (csd : Vector Byte 16) (b1 b2 : BlockIn) (trail : Byte) (rest : List Byte),
    Quiet s ∧ Ready s ∧ s.family = .mmc ∧ WritesAdmitted s s.bufbase.toNat 32 ∧ IdleReply s w1 ∧ CommandReply s 9#8 0x00#8 c9 ∧
    b1.Good s 16 ∧ b1.payload = csd.toList ∧ IdleReply s w2 ∧ CommandReply s 10#8 0x00#8 c10 ∧ b2.Good s 16 ∧
    s.card = w1 ++ c9 ++ b1.bytes ++ w2 ++ c10 ++ b2.bytes ++ trail :: rest :=
  ⟨ready .mmc ([0xFF#8] ++ reply 0x00#8 ++ (blockIn 16).bytes ++ ([0x00#8, 0x00#8] ++ [0xFF#8]) ++ reply 0x00#8 ++ (blockIn 16).bytes ++ [0xFF#8]),
    _, _, _, _, .replicate 16 0x5A#8, blockIn 16, blockIn 16, 0xFF#8, [], rfl, ⟨rfl, rfl⟩, rfl, fun _ _ => rfl, idleReply_first _ rfl,
    commandReply_first _ _ _ (by decide) rfl (by decide), blockIn_good _ _ rfl, rfl, idleReply_last _ rfl,
    commandReply_first _ _ _ (by decide) rfl (by decide), blockIn_good _ _ rfl, rfl⟩

theorem witness_InfoWithScr : ∃ (s : State) (w1 w2 w3 c9 c10 c55 c51 : List Byte) (csd : Vector Byte 16) (b1 b2 b3 : BlockIn) (trail : Byte)
    (rest : List Byte), Quiet s ∧ Ready s ∧ s.family ≠ .mmc ∧ WritesAdmitted s s.bufbase.toNat 40 ∧ IdleReply s w1 ∧
    CommandReply s 9#8 0x00#8 c9 ∧ b1.Good s 16 ∧ b1.payload = csd.toList ∧ IdleReply s w2 ∧
    CommandReply s 10#8 0x00#8 c10 ∧ b2.Good s 16 ∧ IdleReply s w3 ∧ CommandReply s 55#8 0x00#8 c55 ∧
    CommandReply s 51#8 0x00#8 c51 ∧ b3.Good s 8 ∧
    s.card = w1 ++ c9 ++ b1.bytes ++ w2 ++ c10 ++ b2.bytes ++ w3 ++ c55 ++ c51 ++ b3.bytes ++ trail :: rest :=
  ⟨ready .sdscV1 ([0xFF#8] ++ reply 0x00#8 ++ (blockIn 16).bytes ++ [0xFF#8] ++ reply 0x00#8 ++ (blockIn 16).bytes ++ [0xFF#8] ++ reply 0x00#8 ++
      reply 0x00#8 ++ (blockIn 8).bytes ++ [0xFF#8]),
    _, _, _, _, _, _, _, .replicate 16 0x5A#8, blockIn 16, blockIn 16, blockIn 8, 0xFF#8, [], rfl, ⟨rfl, rfl⟩, by decide, fun _ _ => rfl,
    idleReply_first _ rfl, commandReply_first _ _ _ (by decide) rfl (by decide), blockIn_good _ _ rfl, rfl, idleReply_first _ rfl,
    commandReply_first _ _ _ (by decide) rfl (by decide), blockIn_good _ _ rfl, idleReply_first _ rfl,
    commandReply_first _ _ _ (by decide) rfl (by decide), commandReply_first _ _ _ (by decide) rfl (by decide), blockIn_good _ _ rfl, rfl⟩

theorem witness_StatReadsStatus : ∃ (s : State) (w c55 c13 : List Byte) (r2 : Byte) (b : BlockIn) (trail : Byte) (rest : List Byte), Quiet s ∧ Ready s ∧
    s.family ≠ .mmc ∧ WritesAdmitted s s.bufbase.toNat 64 ∧ IdleReply s w ∧ CommandReply s 55#8 0x00#8 c55 ∧
    CommandReply s 13#8 0x00#8 c13 ∧ b.Good s 64 ∧ s.card = w ++ c55 ++ c13 ++ [r2] ++ b.bytes ++ trail :: rest :=
  ⟨ready .sdhc ([0xFF#8] ++ reply 0x00#8 ++ reply 0x00#8 ++ [0x12#8] ++ (blockIn 64).bytes ++ [0xFF#8]), _, _, _, 0x12#8, blockIn 64, 0xFF#8, [], rfl,
    ⟨rfl, rfl⟩, by decide, fun _ _ => rfl, idleReply_first _ rfl, commandReply_first _ _ _ (by decide) rfl (by decide),
    commandReply_first _ _ _ (by decide) rfl (by decide), blockIn_good _ _ rfl, rfl⟩

/-- Both CSD versions. -/
theorem witness_CapacityFormula : (0x40#8).toNat / 64 = 1 ∧ (0x00#8).toNat / 64 ≠ 1 ∧ (0xC0#8).toNat / 64 ≠ 1 := by decide

/-- Whatever the instruction, it answers a next state; here INFO that completes OK and sets the capacity. -/
theorem witness_OnlyInfoSetsCapacity : ∃ s t : State, (∀ a ∈ s.inbox, a.input ≠ .reset) ∧ exec .info s = .next t :=
  ⟨{ ready .mmc [] with inbox := [{ wait := 5, input := .bufWrite 0 0x01#8 }] }, _, by decide, rfl⟩

/-- V-INFO-2 completes OK. -/
theorem witness_BlockSizeIs512 : ∃ s t : State, s.busy = false ∧ exec .info s = .next t ∧ t.done = true ∧ t.result = .ok :=
  ⟨ready .mmc ([0xFF#8] ++ reply 0x00#8 ++ [0xFE#8] ++ csd1 ++ [0xAA#8, 0x55#8, 0xFF#8] ++ reply 0x00#8 ++ [0xFE#8] ++ cid1 ++
    [0xAA#8, 0x55#8, 0xFF#8]), _, rfl, rfl, by decide +kernel, by decide +kernel⟩

/-- The first and the last data operation, STAT on a card that is no MMC. -/
theorem witness_ReadyTimeoutFails : ∀ p ∈ [(Instr.rd1, 0x4#4), (.stat, 0xA#4)], ∃ (s : State) (busy : List Byte) (trail : Byte) (rest : List Byte),
    p.1.opCode? = some p.2 ∧ 0x4 ≤ p.2.toNat ∧ p.2.toNat ≤ 0xA ∧ (p.1 = .erase ∨ p.1 = .stat → s.family ≠ .mmc) ∧ Quiet s ∧ Ready s ∧
    busy.length = s.cfg.idleWaitTries ∧ (∀ x ∈ busy, x ≠ 0xFF#8) ∧ s.card = busy ++ trail :: rest := by
  intro p hp
  refine ⟨ready .sdhc ([0x00#8, 0xFE#8, 0x00#8] ++ [0xFF#8]), _, 0xFF#8, [], ?_, ?_, ?_, fun _ => by decide, rfl, ⟨rfl, rfl⟩, rfl, by decide, rfl⟩
  all_goals revert p; decide

/-- Rejected, and not answered at all. -/
theorem witness_FirstCommandRejected : ∀ p ∈ [(Instr.wrn, 0x7#4, 55#8), (.stat, 0xA#4, 55#8), (.erase, 0x8#4, 32#8)],
    ∃ (s : State) (r : Byte) (arg : Word) (w c : List Byte) (trail : Byte) (rest : List Byte),
      p.1.opCode? = some p.2.1 ∧ firstCommand s p.1 = some (p.2.2, arg) ∧ (p.1 = .erase ∨ p.1 = .stat → s.family ≠ .mmc) ∧ Quiet s ∧
      Ready s ∧ IdleReply s w ∧ CommandReply s p.2.2 r c ∧ r ≠ 0x00#8 ∧ s.card = w ++ c ++ trail :: rest := by
  intro p hp
  refine ⟨ready .sdhc ([0xFF#8] ++ (List.replicate 6 0xFF#8 ++ [0xFF#8, 0x80#8] ++ [0xFF#8]) ++ [0xFF#8]), 0xFF#8, 0#32, _, _, 0xFF#8, [], ?_, ?_,
    fun _ => by decide, rfl, ⟨rfl, rfl⟩, idleReply_first _ rfl, commandReply_exhausted _ _ ?_ rfl, by decide, rfl⟩
  all_goals revert p; decide

/-- What FirstFailureEnds assumes of an operation whose phases `pre` pass in the parts `ps` and whose next fails in the part `p`. -/
def FirstFailure (s : State) (i : Instr) (op : BitVec 4) (pre post : List Phase) (ph : Phase) (ps : List Part) (p : Part) : Prop :=
  i.opCode? = some op ∧ preCheck op s = none ∧ s.busy = false ∧ Quiet s ∧ phases s i = pre ++ ph :: post ∧
    (∀ x ∈ pre, x.Admitted s) ∧ List.Forall₂ (fun x y => x.Passes s y) pre ps ∧ ph.Fails s p ∧
    s.card = partsBytes (ps ++ [p]) ++ 0xFF#8 :: []

theorem passes_ready (s : State) (ht : s.cfg.idleWaitTries = 3) : Phase.ready.Passes s (.polls [0xFF#8]) := ⟨_, rfl, idleReply_first s ht⟩

theorem passes_command (s : State) (idx : Byte) (arg : Word) (hi : idx ≠ 12#8) (ht : s.cfg.cmdRespTries = 3) :
    (Phase.command idx arg).Passes s (.command idx arg 0x00#8 (reply 0x00#8)) := ⟨_, rfl, commandReply_first s _ _ hi ht (by decide)⟩

theorem passes_receive (s : State) (len off : Nat) (ht : s.cfg.tokenWaitTries = 3) :
    (Phase.receive len off).Passes s (.blockIn off (blockIn len)) := ⟨_, rfl, blockIn_good s _ ht⟩

/-- An exhausted second wait-ready, a rejected last command, no token after a sector's worth of phases, a rejected block, and a
writing that does not end. -/
theorem witness_FirstFailureEnds :
    (∃ s post, FirstFailure s .info 0x9#4 [.ready, .command 9#8 0#32, .receive 16 0] post .ready
      [.polls [0xFF#8], .command 9#8 0#32 0x00#8 (reply 0x00#8), .blockIn 0 (blockIn 16)] (.polls [0x00#8, 0xFE#8, 0x00#8])) ∧
    (∃ s post, FirstFailure s .erase 0x8#4 [.ready, .command 32#8 10#32, .command 33#8 20#32] post (.command 38#8 0#32)
      [.polls [0xFF#8], .command 32#8 10#32 0x00#8 (reply 0x00#8), .command 33#8 20#32 0x00#8 (reply 0x00#8)]
      (.command 38#8 0#32 0x00#8 (reply 0x04#8))) ∧
    (∃ s post, FirstFailure s .stat 0xA#4 [.ready, .command 55#8 0#32, .command 13#8 0#32, .gap 1] post (.receive 64 0)
      [.polls [0xFF#8], .command 55#8 0#32 0x00#8 (reply 0x00#8), .command 13#8 0#32 0x00#8 (reply 0x00#8), .polls [0x12#8]]
      (.polls (List.replicate 3 0xFF#8))) ∧
    (∃ s post, FirstFailure s .wr1 0x6#4 [.ready, .command 24#8 0#32, .gap 3] post (.send 0xFE#8 0)
      [.polls [0xFF#8], .command 24#8 0#32 0x00#8 (reply 0x00#8), .polls [0xFF#8, 0xFF#8, 0xFF#8]] (.blockOut 0xFE#8 0 (blockOut 0x0D#8 []))) ∧
    (∃ s post, FirstFailure s .wr1 0x6#4 [.ready, .command 24#8 0#32, .gap 3, .send 0xFE#8 0] post (.busy 3)
      [.polls [0xFF#8], .command 24#8 0#32 0x00#8 (reply 0x00#8), .polls [0xFF#8, 0xFF#8, 0xFF#8], .blockOut 0xFE#8 0 (blockOut 0xE5#8 [])]
      (.polls [0x00#8, 0xFE#8, 0x00#8])) := by
  have ok : ∀ (i : Nat), inRegions [] i = false := fun _ => rfl
  refine ⟨⟨ready .mmc _, _, rfl, rfl, rfl, rfl, rfl, ?_, ?_, ⟨_, rfl, waitExhausted_three _ rfl⟩, rfl⟩,
    ⟨{ ready .sdhc _ with arg0 := 10#32, arg1 := 20#32 }, _, rfl, rfl, rfl, rfl, rfl, ?_, ?_,
      ⟨_, 0x04#8, rfl, commandReply_first _ _ _ (by decide) rfl (by decide), by decide⟩, rfl⟩,
    ⟨ready .sdhc _, _, rfl, rfl, rfl, rfl, rfl, ?_, ?_, ⟨_, rfl, noStartToken_both _ rfl _ (by decide)⟩, rfl⟩,
    ⟨ready .sdhc _, _, rfl, rfl, rfl, rfl, rfl, ?_, ?_, ⟨_, rfl, blockOut_length _ _, rfl, rfl, by decide, fun _ _ => rfl⟩, rfl⟩,
    ⟨ready .sdhc _, _, rfl, rfl, rfl, rfl, rfl, ?_, ?_, ⟨_, rfl, waitExhausted_three _ rfl⟩, rfl⟩⟩
  · intro x hx
    simp only [List.mem_cons, List.not_mem_nil, or_false] at hx
    rcases hx with rfl | rfl | rfl
    · trivial
    · trivial
    · exact fun _ _ => rfl
  · exact .cons (passes_ready _ rfl) (.cons (passes_command _ _ _ (by decide) rfl) (.cons (passes_receive _ _ _ rfl) .nil))
  · intro x hx
    simp only [List.mem_cons, List.not_mem_nil, or_false] at hx
    rcases hx with rfl | rfl | rfl <;> trivial
  · exact .cons (passes_ready _ rfl) (.cons (passes_command _ _ _ (by decide) rfl) (.cons (passes_command _ _ _ (by decide) rfl) .nil))
  · intro x hx
    simp only [List.mem_cons, List.not_mem_nil, or_false] at hx
    rcases hx with rfl | rfl | rfl | rfl <;> trivial
  · exact .cons (passes_ready _ rfl) (.cons (passes_command _ _ _ (by decide) rfl) (.cons (passes_command _ _ _ (by decide) rfl)
      (.cons ⟨_, rfl, rfl⟩ .nil)))
  · intro x hx
    simp only [List.mem_cons, List.not_mem_nil, or_false] at hx
    rcases hx with rfl | rfl | rfl <;> trivial
  · exact .cons (passes_ready _ rfl) (.cons (passes_command _ _ _ (by decide) rfl) (.cons ⟨_, rfl, rfl⟩ .nil))
  · intro x hx
    simp only [List.mem_cons, List.not_mem_nil, or_false] at hx
    rcases hx with rfl | rfl | rfl | rfl
    · trivial
    · trivial
    · trivial
    · exact fun _ _ => rfl
  · exact .cons (passes_ready _ rfl) (.cons (passes_command _ _ _ (by decide) rfl) (.cons ⟨_, rfl, rfl⟩
      (.cons ⟨_, rfl, blockOut_length _ _, rfl, rfl, by decide⟩ .nil)))

/-- The second byte of RDN's second sector cannot be stored; the second byte of WRN's first block cannot be read. -/
theorem witness_UnadmittedAccessIsStuck :
    (∃ (s : State) (pre post : List Phase) (ps : List Part) (p : Part), Instr.rdn.opCode? = some 0x5#4 ∧ preCheck 0x5#4 s = none ∧ s.busy = false ∧
      Quiet s ∧ phases s .rdn ++ loopPhases s .rdn = pre ++ .receive 512 512 :: post ∧ (∀ x ∈ pre, x.Admitted s) ∧
      List.Forall₂ (fun x y => x.Passes s y) pre ps ∧ (Phase.receive 512 512).Sticks s p ∧ s.card = partsBytes (ps ++ [p]) ++ []) ∧
    (∃ (s : State) (pre post : List Phase) (ps : List Part) (p : Part), Instr.wrn.opCode? = some 0x7#4 ∧ preCheck 0x7#4 s = none ∧ s.busy = false ∧
      Quiet s ∧ phases s .wrn ++ loopPhases s .wrn = pre ++ .send 0xFC#8 0 :: post ∧ (∀ x ∈ pre, x.Admitted s) ∧
      List.Forall₂ (fun x y => x.Passes s y) pre ps ∧ (Phase.send 0xFC#8 0).Sticks s p ∧ s.card = partsBytes (ps ++ [p]) ++ []) := by
  refine ⟨⟨{ ready .sdhc _ with arg1 := 2#32, cfg := { tcfg with noWrite := [{ base := 513, size := 1 }] } },
      [.ready, .command 18#8 0#32, .receive 512 0], [],
      [.polls [0xFF#8], .command 18#8 0#32 0x00#8 (reply 0x00#8), .blockIn 0 (blockIn 512)],
      .stuckIn 512 ([0xFF#8, 0xFF#8] ++ [0xFE#8]) [0x5A#8] 0x5B#8, rfl, rfl, rfl, rfl, rfl, ?_, ?_,
      ⟨_, _, _, rfl, tokenReply_last _ _ rfl (by decide), by decide, ?_, by decide⟩, rfl⟩,
    ⟨{ ready .mmc _ with arg1 := 1#32, cfg := { tcfg with noRead := [{ base := 1, size := 1 }] } },
      [.ready, .command 25#8 0#32, .gap 3], [.busy 3],
      [.polls [0xFF#8], .command 25#8 0#32 0x00#8 (reply 0x00#8), .polls [0xFF#8, 0xFF#8, 0xFF#8]],
      .stuckOut 0xFC#8 0 0xFF#8 [0xFF#8], rfl, rfl, rfl, rfl, rfl, ?_, ?_, ⟨_, _, rfl, by decide, ?_, by decide⟩, rfl⟩⟩
  · intro x hx
    simp only [List.mem_cons, List.not_mem_nil, or_false] at hx
    rcases hx with rfl | rfl | rfl
    · trivial
    · trivial
    · intro i hi
      have h : i % 2 ^ 32 = i := Nat.mod_eq_of_lt (by omega)
      show (decide (513 ≤ (0 + 0 + i) % 2 ^ 32) && decide ((0 + 0 + i) % 2 ^ 32 < 513 + 1) || false) = false
      rw [Nat.zero_add, h, Bool.or_false, Bool.and_eq_false_iff]
      exact .inl (decide_eq_false (by omega))
  · exact .cons (passes_ready _ rfl) (.cons (passes_command _ _ _ (by decide) rfl) (.cons (passes_receive _ _ _ rfl) .nil))
  · intro i hi
    obtain rfl : i = 0 := Nat.lt_one_iff.mp hi
    decide
  · intro x hx
    simp only [List.mem_cons, List.not_mem_nil, or_false] at hx
    rcases hx with rfl | rfl | rfl <;> trivial
  · exact .cons (passes_ready _ rfl) (.cons (passes_command _ _ _ (by decide) rfl) (.cons ⟨_, rfl, rfl⟩ .nil))
  · intro i hi
    obtain rfl : i = 0 := Nat.lt_one_iff.mp hi
    decide

/-- A command, and CMD12. -/
theorem witness_CommandRowsAnswer : (∃ (s : State) (l rest : List Byte), (Instr.cmd17 5#32 0#7).command? = some (17#8, 5#32, 0#7) ∧ Quiet s ∧
      CommandReply s 17#8 0x00#8 l ∧ s.card = l ++ rest) ∧
    (∃ (s : State) (l rest : List Byte), (Instr.cmd12 0#32 0#7).command? = some (12#8, 0#32, 0#7) ∧ Quiet s ∧
      CommandReply s 12#8 0x00#8 l ∧ s.card = l ++ rest) :=
  ⟨⟨fresh ((List.replicate 6 0xFF#8 ++ [0xFF#8, 0x80#8] ++ [0x00#8]) ++ []), _, [], rfl, rfl, commandReply_last _ _ _ (by decide) rfl (by decide), rfl⟩,
    ⟨fresh ((List.replicate 7 0xFF#8 ++ [] ++ [0x00#8]) ++ []), _, [], rfl, rfl, commandReply_stop _ _ rfl (by decide), rfl⟩⟩

theorem witness_CommandRowsExhaust : ∀ p ∈ [(Instr.cmd58 0#32 0#7, 58#8, 6), (Instr.cmd12 0#32 0#7, 12#8, 7)],
    ∃ (s : State) (junk polls rest : List Byte), p.1.command? = some (p.2.1, 0#32, 0#7) ∧ Quiet s ∧
      junk.length = (if p.2.1 = 12#8 then 7 else 6) ∧ polls.length = s.cfg.cmdRespTries ∧ (∀ b ∈ polls, b.getLsbD 7 = true) ∧
      polls.getLast? = some 0x80#8 ∧ s.card = junk ++ polls ++ rest := by
  intro p hp
  refine ⟨fresh (List.replicate p.2.2 0xFF#8 ++ [0xFF#8, 0xC1#8, 0x80#8] ++ [0x00#8]), _, _, [0x00#8], ?_, rfl, ?_, rfl, by decide, rfl, rfl⟩
  all_goals revert p; decide

theorem witness_CommandRowFrame : ∃ s : State, (Instr.acmd41 0#32 0#7).command? = some (41#8, 0#32, 0#7) ∧ Quiet s := ⟨State.reset, rfl, rfl⟩

theorem witness_R1Received : Quiet State.reset := rfl

theorem witness_TokensSent : Quiet State.reset := rfl

theorem witness_DataResponsesReceived : Quiet State.reset := rfl

theorem witness_AcceptanceIs04 : ∀ d ∈ [0x05#8, 0x0D#8], ∃ s : State, Quiet s ∧ s.card = d :: [] := fun d _ => ⟨fresh [d], rfl, rfl⟩

theorem witness_AddressAdjust : Family.sdhc = .sdhc ∧ Family.mmc ≠ .sdhc := by decide

theorem witness_RequestFrame : ∃ s t : State, Instr.rd1.opCode? = some 0x4#4 ∧ Quiet s ∧ (s.busy = false → s.cs = false) ∧ exec .rd1 s = .next t :=
  ⟨ready .sdhc [], _, rfl, rfl, fun _ => rfl, rfl⟩

theorem witness_FamilyWriters : ∃ s t : State, (∀ a ∈ s.inbox, a.input ≠ .reset) ∧ exec .erase s = .next t :=
  ⟨{ ready .sdhc [] with inbox := [{ wait := 0, input := .bufRead 0 }] }, _, by decide, rfl⟩

/-- Each operand register. -/
theorem witness_OperandsAreLatched : ∀ offset ∈ [0x08, 0x0C, 0x10], ∃ (s t : State) (evs : List Event), Instr.rdn.opCode? = some 0x5#4 ∧ Quiet s ∧
    s.busy = false ∧ preCheck 0x5#4 s = none ∧ (offset = 0x08 ∨ offset = 0x0C ∨ offset = 0x10) ∧ exec .rdn s = .next t ∧ Emits s t evs := by
  intro offset ho
  refine ⟨ready .sdhc [], start 0x5#4 bodyRdn (ready .sdhc []), (start 0x5#4 bodyRdn (ready .sdhc [])).trace.reverse, rfl, rfl, rfl, rfl, ?_, rfl, ?_⟩
  · simpa using ho
  · rw [Emits, List.reverse_reverse]
    exact (List.append_nil _).symm

/-- A byte overwritten twice by the requester and once by the block, whose reads race and whose writes collide; and a byte nobody
has written, while BUSY = 1. -/
theorem witness_RacesGiveEither : ∃ s : State, Quiet s ∧ s.busy = true ∧ memWf s.mem = true ∧ inRegions s.cfg.noRead (bufAddr s 5) = false ∧
    inRegions s.cfg.noWrite (bufAddr s 5) = false ∧ inRegions s.cfg.noWrite (bufAddr s 4) = false ∧
    oldValues (bufAddr s 5) s.reqOld = [0x01#8, 0x00#8] ∧ oldValues (bufAddr s 5) s.blkOld = [0x02#8] ∧
    oldValues (bufAddr s 4) s.reqOld = [] ∧ oldValues (bufAddr s 4) s.blkOld = [] :=
  ⟨{ fresh [] with busy := true, reqOld := [(5, 0x01#8), (6, 0x09#8), (5, 0x00#8)], blkOld := [(5, 0x02#8)] }, rfl, rfl, rfl, rfl, rfl, rfl,
    by decide, by decide, by decide, by decide⟩

/-- The state after reset, and its next step. -/
theorem witness_StepKeepsInvariant : Inv State.reset ∧ ∃ t, step State.reset = .next t :=
  ⟨{ memCanonical := rfl
     memInside := fun _ h => by cases h
     familyKnown := fun h => by cases h
     extAssembled := by decide
     idleReleased := fun _ => rfl
     idleSeq := fun _ => .inl rfl
     notDoneWhileBusy := fun h => by cases h
     blockSize := .inl rfl
     drespMasked := by decide
     exchangesCounted := rfl }, _, rfl⟩

/-- A step that keeps INIT_OK = 1, and a STATUS read that lands in a running RD1 and sees it. -/
theorem witness_FamilyKnown :
    (∃ s t : State, (s.initOk = true → familyCode s.family ∈ [1#3, 2#3, 3#3, 4#3]) ∧ step s = .next t ∧ t.initOk = true) ∧
    (∃ s t : State, (s.initOk = true → familyCode s.family ∈ [1#3, 2#3, 3#3, 4#3]) ∧
      s.inbox = [{ wait := 1, input := .access { offset := 0x04, width := 32, write := none } }] ∧ exec .rd1 s = .next t ∧ t.inbox = [] ∧
      t.rdata.getLsbD 3 = true) :=
  ⟨⟨ready .sdscV1 [], _, fun _ => by decide, rfl, rfl⟩,
    ⟨{ ready .sdhc [0x00#8, 0x00#8, 0x00#8, 0xFF#8] with
        inbox := [{ wait := 1, input := .access { offset := 0x04, width := 32, write := none } }] }, _, fun _ => by decide, rfl, rfl,
      by decide +kernel, by decide +kernel⟩⟩

theorem witness_EveryOperationCompletes : ∃ s : State, Instr.wrn.opCode? = some 0x7#4 ∧ s.busy = false ∧ s.cs = false ∧ AllAdmitted s ∧
    (∀ a ∈ s.inbox, a.input ≠ .reset) :=
  ⟨{ ready .sdhc [] with inbox := [{ wait := 3, input := .bufWrite 7 0x01#8 }] }, rfl, rfl, rfl, ⟨rfl, rfl⟩, by decide⟩

theorem witness_OneSelectOneDeselect : ∃ s t : State, Instr.rd1.opCode? = some 0x4#4 ∧ s.cs = false ∧ (∀ a ∈ s.inbox, a.input ≠ .reset) ∧
    exec .rd1 s = .next t := ⟨ready .sdhc [], _, rfl, rfl, (fun _ h => by cases h), rfl⟩

theorem witness_ExchangesBounded : ∃ s t : State, (s.busy = false → s.cs = false) ∧ exec .init s = .next t := ⟨State.reset, _, fun _ => rfl, rfl⟩

end Sys2Proof.Tests
end

section
/-! SUPPORT. What a piece of the sequencer's work does when no reset arrives, whatever else arrives and whatever the card answers:
BUSY and the latches stand, the trace says what it did to the bus, and it can stop only by a `raise` or at a buffer access the
platform does not admit. -/
namespace Sys2Proof.Machine

/-! ### What stands while an operation runs -/

/-- Nothing that is still to arrive is a reset (R251). -/
def NoReset (s : State) : Prop := ∀ a ∈ s.inbox, a.input ≠ .reset

/-- `t` is a later state of the run `s` is in: BUSY, the latches and the parameters are the same (R6, R22, R35). -/
structure SameRun (s t : State) : Prop where
  busy : t.busy = s.busy
  lOp : t.lOp = s.lOp
  lArg0 : t.lArg0 = s.lArg0
  lArg1 : t.lArg1 = s.lArg1
  lBuf : t.lBuf = s.lBuf
  cfg : t.cfg = s.cfg

theorem SameRun.refl (s : State) : SameRun s s := ⟨rfl, rfl, rfl, rfl, rfl, rfl⟩

theorem SameRun.trans {s t u : State} (h : SameRun s t) (k : SameRun t u) : SameRun s u :=
  ⟨k.busy.trans h.busy, k.lOp.trans h.lOp, k.lArg0.trans h.lArg0, k.lArg1.trans h.lArg1, k.lBuf.trans h.lBuf,
    k.cfg.trans h.cfg⟩

/-- No event from `s` to `t`, and chip-select as it was. -/
structure Silent (s t : State) : Prop where
  trace : t.trace = s.trace
  cs : t.cs = s.cs

theorem Silent.refl (s : State) : Silent s s := ⟨rfl, rfl⟩

theorem Silent.trans {s t u : State} (h : Silent s t) (k : Silent t u) : Silent s u :=
  ⟨k.trace.trans h.trace, k.cs.trans h.cs⟩

/-- From `s` to `t` the chip-select events are `bs`, in order, and CS is what the last of them made it (R34, R100, R101). -/
structure Selects (bs : List Bool) (s t : State) : Prop where
  events : ∃ evs, Emits s t evs ∧ selects evs = bs
  cs : t.cs = bs.getLast?.getD s.cs

theorem selects_append (l m : List Event) : selects (l ++ m) = selects l ++ selects m := by
  induction l with
  | nil => rfl
  | cons e l ih => cases e <;> simp [selects, ih]

theorem Selects.trans {bs cs : List Bool} {s t u : State} (h : Selects bs s t) (k : Selects cs t u) :
    Selects (bs ++ cs) s u := by
  obtain ⟨⟨l, hl, rfl⟩, hc⟩ := h
  obtain ⟨⟨m, hm, rfl⟩, kc⟩ := k
  refine ⟨⟨l ++ m, ?_, selects_append l m⟩, ?_⟩
  · rw [Emits, hm, hl, List.reverse_append, List.append_assoc]
  · rw [kc, hc, List.getLast?_append]
    cases (selects m).getLast? <;> rfl

theorem Silent.selects {s t : State} (h : Silent s t) : Selects [] s t := ⟨⟨[], h.trace, rfl⟩, h.cs⟩

/-- One event that is no chip-select event. -/
theorem Selects.one {s t : State} (e : Event) (h : t.trace = e :: s.trace) (hc : t.cs = s.cs) (he : Machine.selects [e] = []) :
    Selects [] s t := ⟨⟨[e], h, he⟩, hc⟩

/-! ### Moves -/

/-- The kinds of move that make no event and leave chip-select. -/
def silentMoves : List Label :=
  [.outside, .seq, .counters, .lastR1, .ext, .dresp, .csd, .pin, .family, .initOk, .capkb, .blksize]

/-- Every kind of move but a select, a deselect and a reset. -/
def heldMoves : List Label := silentMoves ++ [.exchange, .memRead, .memWrite]

/-- BUSY, the latches and the parameters outlive every move but a reset, and only the outside changes what is to arrive. -/
theorem Move.frame {l : Label} (hl : l ≠ .reset) {s t : State} (h : Move l s t) :
    SameRun s t ∧ (l ≠ .outside → t.inbox = s.inbox) := by
  cases l
  case reset => exact absurd rfl hl
  case select | deselect | capkb | blksize => obtain rfl := h; exact ⟨⟨rfl, rfl, rfl, rfl, rfl, rfl⟩, fun _ => rfl⟩
  case seq | lastR1 | dresp | csd | family | initOk =>
    obtain ⟨_, rfl⟩ := h; exact ⟨⟨rfl, rfl, rfl, rfl, rfl, rfl⟩, fun _ => rfl⟩
  case ext => obtain ⟨_, _, rfl⟩ := h; exact ⟨⟨rfl, rfl, rfl, rfl, rfl, rfl⟩, fun _ => rfl⟩
  case exchange | pin => obtain ⟨_, _, _, rfl⟩ := h; exact ⟨⟨rfl, rfl, rfl, rfl, rfl, rfl⟩, fun _ => rfl⟩
  case counters | memRead => obtain ⟨_, _, _, _, rfl⟩ := h; exact ⟨⟨rfl, rfl, rfl, rfl, rfl, rfl⟩, fun _ => rfl⟩
  case memWrite => obtain ⟨_, _, _, _, _, _, _, rfl, _⟩ := h; exact ⟨⟨rfl, rfl, rfl, rfl, rfl, rfl⟩, fun _ => rfl⟩
  case outside =>
    obtain ⟨_, _, _, _, _, _, _, _, _, _, rfl, _⟩ := h; exact ⟨⟨rfl, rfl, rfl, rfl, rfl, rfl⟩, fun h => absurd rfl h⟩

theorem Move.silent {l : Label} (hl : l ∈ silentMoves) {s t : State} (h : Move l s t) : Silent s t := by
  cases l
  case select | deselect | exchange | memRead | memWrite | reset => exact absurd hl (by decide)
  case capkb | blksize => obtain rfl := h; exact ⟨rfl, rfl⟩
  case seq | lastR1 | dresp | csd | family | initOk => obtain ⟨_, rfl⟩ := h; exact ⟨rfl, rfl⟩
  case ext => obtain ⟨_, _, rfl⟩ := h; exact ⟨rfl, rfl⟩
  case pin => obtain ⟨_, _, _, rfl⟩ := h; exact ⟨rfl, rfl⟩
  case counters => obtain ⟨_, _, _, _, rfl⟩ := h; exact ⟨rfl, rfl⟩
  case outside => obtain ⟨_, _, _, _, _, _, _, _, _, _, rfl, _⟩ := h; exact ⟨rfl, rfl⟩

/-- The moves that do make an event make no chip-select event. -/
theorem Move.held {l : Label} (hl : l ∈ heldMoves) {s t : State} (h : Move l s t) : Selects [] s t := by
  by_cases hs : l ∈ silentMoves
  · exact (h.silent hs).selects
  · have : l ∈ [Label.exchange, .memRead, .memWrite] := (List.mem_append.mp hl).resolve_left hs
    cases l
    case exchange => obtain ⟨o, i, _, rfl⟩ := h; exact .one (.xchg o i) rfl rfl rfl
    case memRead => obtain ⟨a, v, _, _, rfl⟩ := h; exact .one (.memRead (bufAddr s a) v) rfl rfl rfl
    case memWrite => obtain ⟨a, v, _, _, _, _, _, rfl, _⟩ := h; exact .one (.memWrite (bufAddr s a) v) rfl rfl rfl
    all_goals exact absurd this (by decide)

theorem Path.sameRun {L : List Label} (hL : .reset ∉ L) {s t : State} (p : Path L s t) : SameRun s t := by
  induction p with
  | refl => exact .refl _
  | step l hl h _ ih => exact (h.frame fun e => hL (e ▸ hl)).1.trans ih

theorem Path.silent {L : List Label} (hL : L ⊆ silentMoves) {s t : State} (p : Path L s t) : Silent s t := by
  induction p with
  | refl => exact .refl _
  | step l hl h _ ih => exact (h.silent (hL hl)).trans ih

theorem Path.held {s t : State} (p : Path heldMoves s t) : Selects [] s t := by
  induction p with
  | refl => exact (Silent.refl _).selects
  | step l hl h _ ih => exact (h.held hl).trans ih

/-! ### Arrivals -/

/-- What arrives is served to its end where none of it is a reset: nothing stops the work. -/
theorem serve_noReset (l : List Arrival) : ∀ {s : State}, (∀ a ∈ l, a.input ≠ .reset) →
    ∃ t, serve l s = .ok () t ∧ NoReset t ∧ Path [.outside] s t := by
  have out : ∀ {s t u : State}, Move .outside s t → Path [.outside] t u → Path [.outside] s u :=
    fun h p => .step .outside (by simp) h p
  induction l with
  | nil => exact fun {s} _ => ⟨_, rfl, fun _ h => by simp at h, out (move_inbox s []) (.refl _)⟩
  | cons a rest ih =>
    intro s h
    obtain ⟨ha, hrest⟩ := List.forall_mem_cons.mp h
    obtain ⟨wait, input⟩ := a
    cases wait with
    | succ n => exact ⟨_, rfl, List.forall_mem_cons.mpr ⟨ha, hrest⟩, out (move_inbox s _) (.refl _)⟩
    | zero =>
      cases input with
      | reset => exact absurd rfl ha
      | bufRead a =>
        obtain ⟨t, ht, hn, p⟩ := ih (s := requesterRead s a) hrest
        exact ⟨t, ht, hn, out (move_requesterRead s a) p⟩
      | bufWrite a v =>
        obtain ⟨t, ht, hn, p⟩ := ih (s := requesterWrite s a v) hrest
        exact ⟨t, ht, hn, out (move_requesterWrite s a v) p⟩
      | access acc =>
        have stays : Path [.outside] s { s with inbox := ⟨0, .access acc⟩ :: rest } := out (move_inbox s _) (.refl _)
        have still : NoReset { s with inbox := ⟨0, .access acc⟩ :: rest } := h
        by_cases hi : acc.inInterface = false
        · exact ⟨_, by simp [serve, hi], still, stays⟩
        · cases hr : acc.request? with
          | none =>
            obtain ⟨t, ht, hn, p⟩ := ih (s := accessReg s acc) hrest
            exact ⟨t, by simpa [serve, hi, hr] using ht, hn, out (move_accessReg s acc) p⟩
          | some w =>
            by_cases hb : s.busy = true
            · obtain ⟨t, ht, hn, p⟩ := ih (s := s) hrest
              exact ⟨t, by simpa [serve, hi, hr, hb] using ht, hn, p⟩
            · exact ⟨_, by simp [serve, hi, hr, hb], still, stays⟩

theorem sync_noReset {s : State} (h : NoReset s) : ∃ t, sync s = .ok () t ∧ NoReset t ∧ Path [.outside] s t :=
  serve_noReset s.inbox h

/-! ### How a piece ends -/

/-- A piece that never stops. -/
def never (_ : Config) (_ : Stop) : Prop := False

/-- A piece may stop by a `raise`, and at a buffer access only where the platform does not admit every one (R8, R55). -/
def mayStop (c : Config) : Stop → Prop
  | .raised _ => True
  | .abandoned => False
  | .stuck => ¬ (c.noRead = [] ∧ c.noWrite = [])

variable {α β : Type} {R R₁ R₂ : State → State → Prop} {E E₁ : Config → Stop → Prop}

/-- How a piece that runs on `s` ends: still without a reset to come, in the same run, `R` from `s` to the state it leaves; and
if it stops, then as `E` allows. -/
structure Ends (R : State → State → Prop) (E : Config → Stop → Prop) (m : Blk α) (s : State) : Prop where
  noReset : NoReset (alone m s)
  sameRun : SameRun s (alone m s)
  rel : R s (alone m s)
  stop : ∀ e t, m s = .error e t → E s.cfg e

/-- A piece ends so from every state that no reset is to reach. -/
def Works (R : State → State → Prop) (E : Config → Stop → Prop) (m : Blk α) : Prop := ∀ s, NoReset s → Ends R E m s

theorem Ends.of_ok {m : Blk α} {s t : State} {a : α} (h : m s = .ok a t) (hn : NoReset t) (hs : SameRun s t) (hr : R s t) :
    Ends R E m s := by
  refine ⟨?_, ?_, ?_, fun e u he => by rw [h] at he; cases he⟩ <;> rwa [alone_ok h]

theorem Ends.of_error {m : Blk α} {s t : State} {e : Stop} (h : m s = .error e t) (hn : NoReset t) (hs : SameRun s t)
    (hr : R s t) (he : E s.cfg e) : Ends R E m s := by
  refine ⟨?_, ?_, ?_, fun e' u he' => by rw [h] at he'; cases he'; exact he⟩ <;> rwa [alone_error h]

theorem Ends.mono {m : Blk α} {s : State} (h : Ends R₁ E₁ m s) (hR : ∀ t, R₁ s t → R s t) (hE : ∀ e, E₁ s.cfg e → E s.cfg e) :
    Ends R E m s := ⟨h.noReset, h.sameRun, hR _ h.rel, fun e t he => hE e (h.stop e t he)⟩

/-- A piece that never stops gives a value. -/
theorem Ends.ok {m : Blk α} {s : State} (h : Ends R never m s) : ∃ a t, m s = .ok a t ∧ NoReset t ∧ SameRun s t ∧ R s t := by
  cases hm : m s with
  | ok a t =>
    obtain ⟨hn, hs, hr, -⟩ := h
    rw [alone_ok hm] at hn hs hr
    exact ⟨a, t, rfl, hn, hs, hr⟩
  | error e t => exact (h.stop e t hm).elim

/-- Sequencing: the second piece runs on what the first leaves; a stop of the first is a stop of the whole. -/
theorem Ends.bind {m : Blk α} {f : α → Blk β} {s : State} (hm : Ends R₁ E₁ m s)
    (hf : ∀ a t, NoReset t → R₁ s t → Ends R₂ E (f a) t) (hok : ∀ t u, R₁ s t → R₂ t u → R s u)
    (hstop : ∀ e t, R₁ s t → E₁ s.cfg e → R s t ∧ E s.cfg e) : Ends R E (m >>= f) s := by
  obtain ⟨hn, hs, hr, he⟩ := hm
  cases hms : m s with
  | ok a t =>
    rw [alone_ok hms] at hn hs hr
    obtain ⟨kn, ks, kr, ke⟩ := hf a t hn hr
    have e : (m >>= f) s = f a t := blk_bind_ok hms f
    rw [hs.cfg] at ke
    rw [← alone_congr (m := m >>= f) e] at kn ks kr
    exact ⟨kn, hs.trans ks, hok t _ hr kr, fun e' u h => ke e' u (e ▸ h)⟩
  | error e t =>
    rw [alone_error hms] at hn hs hr
    obtain ⟨hR, hE⟩ := hstop e t hr (he e t hms)
    exact .of_error (blk_bind_error hms f) hn hs hR hE

/-- Sequencing after a piece that never stops. -/
theorem Ends.after {m : Blk α} {f : α → Blk β} {s : State} (hm : Ends R₁ never m s)
    (hf : ∀ a t, NoReset t → R₁ s t → Ends R₂ E (f a) t) (hok : ∀ t u, R₁ s t → R₂ t u → R s u) :
    Ends R E (m >>= f) s := hm.bind hf hok fun _ _ _ h => h.elim

theorem Works.pure (hR : Chain R) (a : α) : Works R E (pure a : Blk α) := fun s hn => .of_ok rfl hn (.refl s) (hR.refl s)

theorem Works.bind (hR : Chain R) {m : Blk α} {f : α → Blk β} (hm : Works R E m) (hf : ∀ a, Works R E (f a)) :
    Works R E (m >>= f) := fun s hn =>
  (hm s hn).bind (fun a t ht _ => hf a t ht) (fun _ _ => hR.trans _ _ _) fun _ _ h k => ⟨h, k⟩

theorem Works.mono {m : Blk α} (h : Works R₁ E₁ m) (hR : ∀ s t, R₁ s t → R s t) (hE : ∀ c e, E₁ c e → E c e) : Works R E m :=
  fun s hn => (h s hn).mono (hR s) (hE s.cfg)

/-! ### The moves of a piece -/

variable {L : List Label}

/-- A piece that makes one move. -/
theorem Ends.of_move {m : Blk α} {s t : State} {a : α} {l : Label} (h : m s = .ok a t) (hn : NoReset s) (hl : l ∈ L)
    (hi : l ∉ [Label.outside, .reset]) (hm : Move l s t) : Ends (Path L) E m s := by
  obtain ⟨same, inbox⟩ := hm.frame (l := l) (fun e => hi (by simp [e]))
  refine .of_ok h ?_ same (.one l hl hm)
  rw [NoReset, inbox fun e => hi (by simp [e])]
  exact hn

theorem works_sync (h : .outside ∈ L) : Works (Path L) E sync := fun s hn => by
  obtain ⟨t, ht, hn', p⟩ := sync_noReset hn
  exact .of_ok ht hn' (p.sameRun (by simp)) (p.mono (by simpa using h))

/-- A piece that makes one move once what has arrived is served. -/
theorem Works.sync_then {f : Unit → Blk α} (h : .outside ∈ L) (hf : ∀ s, NoReset s → Ends (Path L) E (f ()) s) :
    Works (Path L) E (sync >>= f) := fun s hn =>
  (works_sync (E := never) h s hn).after (fun _ t ht _ => hf t ht) fun _ _ => Path.trans

theorem works_modify {f : State → State} (l : Label) (hl : l ∈ L) (hi : l ∉ [Label.outside, .reset]) (h : ∀ s, Move l s (f s)) :
    Works (Path L) E (modify f : Blk PUnit) := fun s hn => .of_move (t := f s) rfl hn hl hi (h s)

theorem works_at (h : [Label.outside, .seq] ⊆ L) (p : Seq) : Works (Path L) E (at_ p) :=
  (works_modify .seq (h (by simp)) (by decide) fun _ => ⟨p, rfl⟩).bind (Path.chain L) fun _ => works_sync (h (by simp))

theorem works_xchg (h : [Label.outside, .exchange] ⊆ L) (o : Byte) : Works (Path L) E (xchg o) :=
  .sync_then (h (by simp)) fun s hn =>
    .of_move (l := .exchange) rfl hn (h (by simp)) (by decide) ⟨o, cardAnswer s, s.card.tail, rfl⟩

/-- A piece that reads the state first. -/
theorem Ends.get_bind {f : State → Blk α} {s : State} (h : Ends R E (f s) s) : Ends R E ((MonadState.get : Blk State) >>= f) s :=
  ⟨h.noReset, h.sameRun, h.rel, h.stop⟩

/-- An access the platform does not admit is where a piece may be stuck (R55). -/
theorem Ends.stuck {s : State} (hn : NoReset s) (h : ¬ (s.cfg.noRead = [] ∧ s.cfg.noWrite = [])) :
    Ends (Path L) mayStop (throw .stuck : Blk α) s := .of_error rfl hn (.refl s) (.refl s) h

theorem works_memRead (h : [Label.outside, .memRead] ⊆ L) (a : Nat) : Works (Path L) mayStop (memRead a) :=
  .sync_then (h (by simp)) fun s hn => .get_bind <| by
    simp only []
    split
    · exact .stuck hn fun hc => by simp_all [inRegions]
    · obtain ⟨p, n, e⟩ := racePick_snd s (memGet s.mem (bufAddr s a)) (oldValues (bufAddr s a) s.reqOld)
      generalize racePick s (memGet s.mem (bufAddr s a)) (oldValues (bufAddr s a) s.reqOld) = r at e
      obtain ⟨v, s'⟩ := r
      obtain rfl := e
      exact .of_move (l := .memRead) rfl hn (h (by simp)) (by decide) ⟨a, v, p, n, rfl⟩

theorem works_memWrite (h : [Label.outside, .memWrite] ⊆ L) (a : Nat) (v : Byte) : Works (Path L) mayStop (memWrite a v) :=
  .sync_then (h (by simp)) fun s hn => .get_bind <| by
    simp only []
    split
    · exact .stuck hn fun hc => by simp_all [inRegions]
    · obtain ⟨w, p, n, e, hw, hn'⟩ := raceWrite_cases s (memGet s.mem (bufAddr s a)) v
        (!(oldValues (bufAddr s a) s.reqOld).isEmpty)
      rw [e]
      refine .of_move (l := .memWrite) rfl hn (h (by simp)) (by decide)
        ⟨a, v, loser (memGet s.mem (bufAddr s a)) v w, w, p, n, _, rfl, ?_⟩
      cases ho : oldValues (bufAddr s a) s.reqOld with
      | nil =>
        obtain ⟨rfl, rfl, rfl⟩ := hn' (by rw [ho]; rfl)
        exact .inl ⟨rfl, if_pos rfl, rfl, rfl, rfl⟩
      | cons x l => exact .inr ⟨by simp, hw⟩

end Sys2Proof.Machine
end

section
/-! SUPPORT. What an operation is built of, said once: `Straight P` says that `P` holds of the sequencer's statements, exchanges and
changes of its own state and is kept by sequencing, `Closed P` that it holds of `raise` and of buffer accesses too. Then `P` holds
of every primitive of Machine/Engine.lean, and of every body but for its one Select. -/
namespace Sys2Proof.Machine

/-- The kinds of move that change the block's own state and make no event. -/
def ownMoves : List Label := [.seq, .counters, .lastR1, .ext, .dresp, .csd, .family, .initOk, .capkb, .blksize]

/-- A property of the pieces that never stop, kept by sequencing. -/
structure Straight (P : ∀ ⦃α : Type⦄, Blk α → Prop) : Prop where
  pure {α : Type} (a : α) : P (pure a : Blk α)
  bind {α β : Type} {m : Blk α} {f : α → Blk β} : P m → (∀ a, P (f a)) → P (m >>= f)
  get : P (MonadState.get : Blk State)
  sync : P sync
  change {f : State → State} (l : Label) : l ∈ ownMoves → (∀ s, Move l s (f s)) → P (modify f : Blk PUnit)
  xchg (o : Byte) : P (xchg o)

/-- It holds of `raise` and of buffer accesses too. -/
structure Closed (P : ∀ ⦃α : Type⦄, Blk α → Prop) : Prop extends Straight P where
  raise (c : Cause) : P (raise c)
  memRead (a : Nat) : P (memRead a)
  memWrite (a : Nat) (v : Byte) : P (memWrite a v)

variable {P : ∀ ⦃α : Type⦄, Blk α → Prop}

/-! ### Pieces that never stop -/

theorem Straight.ite (_ : Straight P) {α : Type} {c : Prop} [Decidable c] {a b : Blk α} (ha : P a) (hb : P b) :
    P (if c then a else b) := by
  split
  · exact ha
  · exact hb

section Straight
variable (h : Straight P)
include h

theorem Straight.moveSeq (p : Seq) : P (moveSeq p) := h.change .seq (by decide) fun _ => ⟨p, rfl⟩

theorem Straight.at_ (p : Seq) : P (at_ p) := h.bind (h.moveSeq p) fun _ => h.sync

theorem Straight.part (n k : Nat) : P (part n k) := h.at_ _

theorem Straight.line (n : Nat) : P (line n) := h.at_ _

theorem Straight.initAt (st : InitState) (n k : Nat) : P (initAt st n k) := h.at_ _

theorem Straight.setTries (n : Nat) : P (setTries n) :=
  h.change .counters (by decide) fun s => ⟨n, s.sector, s.byteIdx, s.res, rfl⟩

theorem Straight.setSector (k : Nat) : P (setSector k) :=
  h.change .counters (by decide) fun s => ⟨s.tries, k, s.byteIdx, s.res, rfl⟩

theorem Straight.setByteIdx (i : Nat) : P (setByteIdx i) :=
  h.change .counters (by decide) fun s => ⟨s.tries, s.sector, i, s.res, rfl⟩

theorem Straight.setRes (r : Accum) : P (setRes r) :=
  h.change .counters (by decide) fun s => ⟨s.tries, s.sector, s.byteIdx, r, rfl⟩

theorem Straight.setFamily (f : Family) : P (setFamily f) := h.change .family (by decide) fun _ => ⟨f, rfl⟩

theorem Straight.setInitOk (b : Bool) : P (setInitOk b) := h.change .initOk (by decide) fun _ => ⟨b, rfl⟩

theorem Straight.fillers (n : Nat) : P (fillers n) := by
  induction n with
  | zero => exact h.pure ()
  | succ n ih => exact h.bind (h.xchg _) fun _ => ih

theorem Straight.sendBytes (bs : List Byte) : P (sendBytes bs) := by
  induction bs with
  | nil => exact h.pure ()
  | cons b bs ih => exact h.bind (h.xchg b) fun _ => ih

theorem Straight.pollResponse (n : Nat) : ∀ last, P (pollResponse n last) := by
  induction n with
  | zero => exact fun _ => h.pure _
  | succ n ih => exact fun _ => h.bind (h.xchg _) fun r => h.bind (h.setTries n) fun _ => h.ite (h.pure r) (ih r)

theorem Straight.sendCommand (idx : Byte) (arg : Word) (crc : Byte) : P (sendCommand idx arg crc) :=
  h.bind (h.sendBytes _) fun _ => h.bind (h.ite (h.fillers 1) (h.pure ())) fun _ => h.bind h.get fun _ =>
    h.bind (h.setTries _) fun _ => h.bind (h.pollResponse _ _) fun r =>
    h.bind (h.change .lastR1 (by decide) fun _ => ⟨r, rfl⟩) fun _ => h.pure r

theorem Straight.isAccepted {m : Blk Byte} (hm : P m) : P (isAccepted m) := h.bind hm fun _ => h.pure _

theorem Straight.appCommand (idx : Byte) (arg : Word) : P (appCommand idx arg) :=
  h.bind (h.sendCommand _ _ _) fun _ => h.ite (h.bind (h.sendCommand _ _ _) fun _ => h.pure _) (h.pure _)

theorem Straight.receiveExt (j : Fin 4) : P (receiveExt j) :=
  h.bind (h.xchg _) fun b => h.change .ext (by decide) fun s => ⟨s.ext.set j b, s.ext32, rfl⟩

theorem Straight.getExtendedResponse : P getExtendedResponse :=
  h.bind (h.receiveExt 0) fun _ => h.bind (h.receiveExt 1) fun _ => h.bind (h.receiveExt 2) fun _ =>
    h.bind (h.receiveExt 3) fun _ => h.bind h.get fun s =>
    h.bind (h.change .ext (by decide) fun t => ⟨t.ext, extValue s.ext, rfl⟩) fun _ => h.pure _

theorem Straight.waitUntil (p : Byte → Bool) (n : Nat) : ∀ last, P (waitUntil p n last) := by
  induction n with
  | zero => exact fun _ => h.pure _
  | succ n ih => exact fun _ => h.bind (h.xchg _) fun b => h.bind (h.setTries n) fun _ => h.ite (h.pure _) (ih b)

theorem Straight.waitFor (p : Byte → Bool) (n : Nat) : P (waitFor p n) := h.bind (h.setTries n) fun _ => h.waitUntil p n _

theorem Straight.waitIdle : P waitIdle := h.bind h.get fun _ => h.bind (h.waitFor _ _) fun _ => h.pure _

theorem Straight.waitToken : P waitToken := h.bind h.get fun _ => h.bind (h.waitFor _ _) fun _ => h.pure _

theorem Straight.waitWriteBusy : P waitWriteBusy := h.bind h.get fun _ => h.bind (h.waitFor _ _) fun _ => h.pure _

theorem Straight.waitEraseBusy : P waitEraseBusy := h.bind h.get fun _ => h.bind (h.waitFor _ _) fun _ => h.pure _

theorem Straight.writeGap : P writeGap := h.bind h.get fun _ => h.fillers _

theorem Straight.readDataResponse : P readDataResponse :=
  h.bind (h.xchg _) fun d => h.bind (h.change .dresp (by decide) fun _ => ⟨d, rfl⟩) fun _ => h.pure _

/-- Reading a value the state holds. -/
theorem Straight.read {α : Type} (f : State → α) : P (do let s ← MonadState.get; Pure.pure (f s) : Blk α) :=
  h.bind h.get fun _ => h.pure _

theorem Straight.clearCard : P clearCard :=
  h.bind (h.setFamily _) fun _ => h.bind (h.moveSeq _) fun _ => h.setInitOk _

theorem Straight.rampUp : P rampUp :=
  h.bind (h.initAt _ _ _) fun _ => h.bind h.clearCard fun _ => h.bind (h.initAt _ _ _) fun _ =>
    h.bind h.get fun _ => h.fillers _

end Straight

/-! ### Pieces that may stop -/

section Closed
variable (h : Closed P)
include h

theorem Closed.requires (n : Nat) (c : Cause) {m : Blk Bool} (hm : P m) : P (require n c m) :=
  h.bind (h.line n) fun _ => h.bind hm fun _ => h.ite (h.pure ()) (h.bind (h.part n 2) fun _ => h.raise c)

theorem Closed.returnRes : P returnRes := by
  refine h.bind h.get fun s => ?_
  cases s.res with
  | ok => exact h.pure ()
  | failed c => exact h.raise c

theorem Closed.receivePayload (dest n : Nat) : ∀ i, P (receivePayload dest i n) := by
  induction n with
  | zero => exact fun _ => h.pure ()
  | succ n ih =>
    exact fun i => h.bind (h.setByteIdx i) fun _ => h.bind (h.xchg _) fun b => h.bind (h.memWrite _ b) fun _ => ih (i + 1)

theorem Closed.dataReceive (len dest : Nat) : P (dataReceive len dest) :=
  h.bind h.waitToken fun _ =>
    h.ite (h.bind (h.receivePayload _ _ _) fun _ => h.bind (h.fillers 2) fun _ => h.pure _) (h.pure _)

theorem Closed.receiveSector (k : Nat) : P (receiveSector k) := h.bind (h.read _) fun _ => h.dataReceive _ _

theorem Closed.receiveRegister (len off : Nat) : P (receiveRegister len off) := h.bind (h.read _) fun _ => h.dataReceive _ _

theorem Closed.sendPayload (src n : Nat) : ∀ i, P (sendPayload src i n) := by
  induction n with
  | zero => exact fun _ => h.pure ()
  | succ n ih =>
    exact fun i => h.bind (h.setByteIdx i) fun _ => h.bind (h.memRead _) fun b => h.bind (h.xchg b) fun _ => ih (i + 1)

theorem Closed.sendSector (token : Byte) (k : Nat) : P (sendSector token k) :=
  h.bind (h.read _) fun _ => h.bind (h.xchg token) fun _ => h.bind (h.sendPayload _ _ _) fun _ =>
    h.bind (h.fillers 2) fun _ => h.readDataResponse

end Closed

end Sys2Proof.Machine
end

section
/-! SUPPORT. The bodies that reach the bus, each taken apart at its one Select (R100): what comes before it never stops and touches
no buffer memory, what comes after it selects nothing. -/
namespace Sys2Proof.Machine

/-- A piece with one Select: pieces of `P` before it, pieces of `Q` after it. -/
inductive Opens (P Q : ∀ ⦃α : Type⦄, Blk α → Prop) : Blk Unit → Prop where
  | select {f : Unit → Blk Unit} (hf : ∀ a, Q (f a)) : Opens P Q (select >>= f)
  | before {α : Type} {m : Blk α} {f : α → Blk Unit} (hm : P m) (hf : ∀ a, Opens P Q (f a)) : Opens P Q (m >>= f)
  | after {m : Blk Unit} {f : Unit → Blk Unit} (hm : Opens P Q m) (hf : ∀ a, Q (f a)) : Opens P Q (m >>= f)

variable {P Q : ∀ ⦃α : Type⦄, Blk α → Prop}

/-! ### The loops and phases after the Select -/

section Closed
variable (h : Closed Q)
include h

/-- A line that is a wait-ready, a command, or a test of what a command answered. -/
theorem Closed.readyLine (n : Nat) : Q (require n .readyTimeout waitIdle) := h.requires _ _ h.waitIdle

theorem Closed.commandLine (n : Nat) (idx : Byte) (arg : Word) :
    Q (require n .cmdRejected (isAccepted (sendCommand idx arg 0x00#8))) :=
  h.requires _ _ (h.isAccepted (h.sendCommand _ _ _))

theorem Closed.testLine (n : Nat) (c : Cause) (b : Bool) : Q (require n c (pure b)) := h.requires _ _ (h.pure b)

theorem Closed.rdnLoop (n : Nat) : ∀ k, Q (rdnLoop k n) := by
  induction n with
  | zero => exact fun _ => h.line 7
  | succ n ih =>
    exact fun k => h.bind (h.line 7) fun _ => h.bind (h.setSector k) fun _ => h.bind (h.line 8) fun _ =>
      h.bind (h.receiveSector k) fun _ => h.ite (ih (k + 1))
        (h.bind (h.line 9) fun _ => h.bind (h.setRes _) fun _ => h.line 10)

theorem Closed.checkStop (r : Byte) : Q (checkStop r) :=
  h.bind (h.line 12) fun _ => h.bind h.get fun _ => h.ite (h.bind (h.part 12 2) fun _ => h.setRes _) (h.pure ())

theorem Closed.announceCount (n : Word) : Q (announceCount n) :=
  h.bind (h.line 5) fun _ => h.bind h.get fun _ => h.ite (h.bind (h.part 5 2) fun _ => h.appCommand _ _)
    (h.bind (h.line 6) fun _ => h.isAccepted (h.sendCommand _ _ _))

theorem Closed.announceUnlessMmc (n : Word) : Q (announceUnlessMmc n) :=
  h.bind (h.line 4) fun _ => h.bind h.get fun _ => h.ite (h.pure ())
    (h.bind (h.announceCount n) fun _ => h.testLine _ _ _)

theorem Closed.wrnLoop (n : Nat) : ∀ k, Q (wrnLoop k n) := by
  have ends : ∀ (l : Nat) (c : Cause), Q (do line l; setRes (.failed c); part l 2 : Blk Unit) := fun l c =>
    h.bind (h.line l) fun _ => h.bind (h.setRes _) fun _ => h.part l 2
  induction n with
  | zero => exact fun _ => h.line 12
  | succ n ih =>
    exact fun k => h.bind (h.line 12) fun _ => h.bind (h.setSector k) fun _ => h.bind (h.line 13) fun _ =>
      h.bind (h.sendSector _ k) fun _ => h.ite
        (h.bind (h.line 15) fun _ => h.bind h.waitWriteBusy fun _ => h.ite (ih (k + 1)) (ends 16 _)) (ends 14 _)

theorem Closed.closeWait : Q closeWait :=
  h.bind (h.line 19) fun _ => h.bind h.waitIdle fun _ => h.ite (h.pure ())
    (h.bind (h.line 20) fun _ => h.bind h.get fun _ => h.ite (h.bind (h.part 20 2) fun _ => h.setRes _) (h.pure ()))

theorem Closed.receiveCsd (dest n : Nat) : ∀ i, Q (receiveCsd dest i n) := by
  induction n with
  | zero => exact fun _ => h.line 7
  | succ n ih =>
    exact fun i => h.bind (h.line 7) fun _ => h.bind (h.setByteIdx i) fun _ => h.bind (h.line 8) fun _ =>
      h.bind (h.xchg _) fun _ => h.bind (h.line 9) fun _ => h.bind (h.memWrite _ _) fun _ => h.bind (h.line 10) fun _ =>
      h.bind (h.change .csd (by decide) fun _ => ⟨_, rfl⟩) fun _ => ih (i + 1)

theorem Closed.csdReceive : Q csdReceive :=
  h.bind (h.line 5) fun _ => h.bind h.waitToken fun _ => h.bind (h.testLine _ _ _) fun _ => h.bind (h.read _) fun _ =>
    h.bind (h.receiveCsd _ _ _) fun _ => h.bind (h.line 11) fun _ => h.bind (h.fillers 1) fun _ =>
    h.bind (h.part 11 2) fun _ => h.fillers 1

theorem Closed.scrUnlessMmc : Q scrUnlessMmc :=
  h.bind (h.line 17) fun _ => h.bind h.get fun _ => h.ite (h.pure ())
    (h.bind (h.readyLine _) fun _ => h.bind (h.requires _ _ (h.appCommand _ _)) fun _ =>
      h.requires _ _ (h.receiveRegister _ _))

/-! ### INIT after the Select -/

theorem Closed.lastTry (st : InitState) (l n : Nat) (c : Cause) : Q (lastTry st l n c) :=
  h.bind (h.initAt _ _ _) fun _ => h.bind (h.setTries n) fun _ => h.bind (h.initAt _ _ _) fun _ =>
    h.ite (h.bind (h.initAt _ _ _) fun _ => h.raise c) (h.pure ())

theorem Closed.spiIdleLoop (n : Nat) : Q (spiIdleLoop n) := by
  induction n with
  | zero => exact h.raise _
  | succ n ih =>
    exact h.bind (h.initAt _ _ _) fun _ => h.bind (h.initAt _ _ _) fun _ => h.bind (h.sendCommand _ _ _) fun _ =>
      h.bind (h.initAt _ _ _) fun _ => h.ite (h.initAt _ _ _) (h.bind (h.lastTry _ _ _ _) fun _ => ih)

theorem Closed.setCandidate (st : InitState) (n m : Nat) (f : Family) :
    Q (do initAt st n 1; setFamily f; initAt st m 1 : Blk Unit) :=
  h.bind (h.initAt _ _ _) fun _ => h.bind (h.setFamily f) fun _ => h.initAt _ _ _

theorem Closed.voltageCheckLoop (n : Nat) : Q (voltageCheckLoop n) := by
  induction n with
  | zero => exact h.raise _
  | succ n ih =>
    exact h.bind (h.initAt _ _ _) fun _ => h.bind (h.initAt _ _ _) fun _ => h.bind (h.sendCommand _ _ _) fun _ =>
      h.bind (h.initAt _ _ _) fun _ => h.ite (h.setCandidate _ _ _ _)
        (h.bind (h.initAt _ _ _) fun _ => h.bind h.getExtendedResponse fun _ => h.bind (h.initAt _ _ _) fun _ =>
          h.ite (h.setCandidate _ _ _ _) (h.bind (h.lastTry _ _ _ _) fun _ => ih))

theorem Closed.activateLoop (hcs : Word) (n : Nat) : Q (activateLoop hcs n) := by
  induction n with
  | zero => exact h.raise _
  | succ n ih =>
    exact h.bind (h.initAt _ _ _) fun _ => h.bind (h.initAt _ _ _) fun _ => h.bind (h.sendCommand _ _ _) fun _ =>
      h.bind (h.initAt _ _ _) fun _ => h.ite (h.setCandidate _ _ _ _)
        (h.bind (h.initAt _ _ _) fun _ => h.bind (h.sendCommand _ _ _) fun _ => h.bind (h.initAt _ _ _) fun _ =>
          h.ite (h.bind (h.lastTry _ _ _ _) fun _ => ih) (h.initAt _ _ _))

theorem Closed.mmcActivateLoop (n : Nat) : Q (mmcActivateLoop n) := by
  induction n with
  | zero => exact h.raise _
  | succ n ih =>
    exact h.bind (h.initAt _ _ _) fun _ => h.bind (h.initAt _ _ _) fun _ => h.bind (h.sendCommand _ _ _) fun _ =>
      h.bind (h.initAt _ _ _) fun _ => h.ite (h.bind (h.lastTry _ _ _ _) fun _ => ih) (h.initAt _ _ _)

theorem Closed.voltageCheck : Q voltageCheck :=
  h.bind (h.initAt _ _ _) fun _ => h.bind h.get fun _ => h.bind (h.setTries _) fun _ => h.voltageCheckLoop _

theorem Closed.activate : Q activate :=
  h.bind (h.initAt _ _ _) fun _ => h.bind h.get fun _ => h.bind (h.initAt _ _ _) fun _ => h.bind h.get fun _ =>
    h.bind (h.setTries _) fun _ => h.activateLoop _ _

theorem Closed.askCapacity : Q askCapacity :=
  h.bind (h.initAt _ _ _) fun _ => h.bind (h.sendCommand _ _ _) fun _ => h.bind (h.initAt _ _ _) fun _ =>
    h.bind h.getExtendedResponse fun _ => h.bind (h.initAt _ _ _) fun _ =>
    h.ite (h.bind (h.initAt _ _ _) fun _ => h.setFamily _) (h.pure ())

theorem Closed.resolveFamily : Q resolveFamily :=
  h.bind (h.initAt _ _ _) fun _ => h.bind h.get fun _ => h.ite
    (h.bind (h.initAt _ _ _) fun _ => h.bind h.get fun _ => h.bind (h.setTries _) fun _ => h.mmcActivateLoop _)
    (h.bind (h.initAt _ _ _) fun _ => h.bind h.get fun _ => h.ite h.askCapacity (h.pure ()))

theorem Closed.fixBlockLen : Q fixBlockLen :=
  h.bind (h.initAt _ _ _) fun _ => h.bind h.get fun _ => h.ite (h.pure ())
    (h.bind (h.initAt _ _ _) fun _ => h.bind (h.sendCommand _ _ _) fun _ => h.bind (h.initAt _ _ _) fun _ =>
      h.ite (h.pure ()) (h.bind (h.initAt _ _ _) fun _ => h.raise _))

end Closed

/-! ### The bodies -/

section Bodies
variable (h : Straight P) (k : Closed Q)
include h k

theorem spiIdle_opens : Opens P Q spiIdle :=
  .before (h.initAt _ _ _) fun _ => .select fun _ => k.bind (k.initAt _ _ _) fun _ => k.bind k.get fun _ =>
    k.bind (k.setTries _) fun _ => k.spiIdleLoop _

theorem bodyInit_opens : Opens P Q bodyInit :=
  .before h.rampUp fun _ => .after (spiIdle_opens h k) fun _ => k.bind k.voltageCheck fun _ => k.bind k.activate fun _ =>
    k.bind k.resolveFamily fun _ => k.bind k.fixBlockLen fun _ => k.bind (k.initAt _ _ _) fun _ =>
    k.bind (k.setInitOk _) fun _ => k.initAt _ _ _

theorem bodyRd1_opens : Opens P Q bodyRd1 :=
  .before (h.line _) fun _ => .before (h.read _) fun _ => .before (h.line _) fun _ => .select fun _ =>
    k.bind (k.readyLine _) fun _ => k.bind (k.line _) fun _ => k.bind (k.sendCommand _ _ _) fun _ =>
    k.bind (k.testLine _ _ _) fun _ => k.bind (k.requires _ _ (k.receiveSector _)) fun _ => k.line _

theorem bodyRdn_opens : Opens P Q bodyRdn :=
  .before (h.line _) fun _ => .before (h.read _) fun _ => .before (h.part _ _) fun _ => .before (h.read _) fun _ =>
    .before (h.line _) fun _ => .select fun _ => k.bind (k.readyLine _) fun _ => k.bind (k.line _) fun _ =>
    k.bind (k.sendCommand _ _ _) fun _ => k.bind (k.testLine _ _ _) fun _ => k.bind (k.line _) fun _ =>
    k.bind (k.setRes _) fun _ => k.bind (k.rdnLoop _ _) fun _ => k.bind (k.line _) fun _ =>
    k.bind (k.sendCommand _ _ _) fun _ => k.bind (k.checkStop _) fun _ => k.bind (k.line _) fun _ => k.returnRes

theorem bodyWr1_opens : Opens P Q bodyWr1 :=
  .before (h.line _) fun _ => .before (h.read _) fun _ => .before (h.line _) fun _ => .select fun _ =>
    k.bind (k.readyLine _) fun _ => k.bind (k.line _) fun _ => k.bind (k.sendCommand _ _ _) fun _ =>
    k.bind (k.testLine _ _ _) fun _ => k.bind (k.line _) fun _ => k.bind k.writeGap fun _ =>
    k.bind (k.requires _ _ (k.sendSector _ _)) fun _ => k.bind (k.requires _ _ k.waitWriteBusy) fun _ => k.line _

theorem bodyWrn_opens : Opens P Q bodyWrn :=
  .before (h.line _) fun _ => .before (h.read _) fun _ => .before (h.part _ _) fun _ => .before (h.read _) fun _ =>
    .before (h.line _) fun _ => .select fun _ => k.bind (k.readyLine _) fun _ => k.bind (k.announceUnlessMmc _) fun _ =>
    k.bind (k.line _) fun _ => k.bind (k.sendCommand _ _ _) fun _ => k.bind (k.testLine _ _ _) fun _ =>
    k.bind (k.line _) fun _ => k.bind k.writeGap fun _ => k.bind (k.line _) fun _ => k.bind (k.setRes _) fun _ =>
    k.bind (k.wrnLoop _ _) fun _ => k.bind (k.line _) fun _ => k.bind (k.xchg _) fun _ => k.bind (k.line _) fun _ =>
    k.bind (k.fillers _) fun _ => k.bind k.closeWait fun _ => k.bind (k.line _) fun _ => k.returnRes

theorem bodyErase_opens : Opens P Q bodyErase :=
  .before (h.line _) fun _ => .before (h.read _) fun _ => .before (h.part _ _) fun _ => .before (h.read _) fun _ =>
    .before (h.line _) fun _ => .select fun _ => k.bind (k.readyLine _) fun _ => k.bind (k.commandLine _ _ _) fun _ =>
    k.bind (k.commandLine _ _ _) fun _ => k.bind (k.commandLine _ _ _) fun _ =>
    k.bind (k.requires _ _ k.waitEraseBusy) fun _ => k.line _

theorem bodyInfo_opens : Opens P Q bodyInfo :=
  .before (h.line _) fun _ => .select fun _ => k.bind (k.readyLine _) fun _ => k.bind (k.commandLine _ _ _) fun _ =>
    k.bind k.csdReceive fun _ => k.bind (k.readyLine _) fun _ => k.bind (k.commandLine _ _ _) fun _ =>
    k.bind (k.requires _ _ (k.receiveRegister _ _)) fun _ => k.bind k.scrUnlessMmc fun _ => k.bind (k.line _) fun _ =>
    k.bind (k.change .capkb (by decide) fun _ => rfl) fun _ => k.bind (k.line _) fun _ =>
    k.bind (k.change .blksize (by decide) fun _ => rfl) fun _ => k.line _

theorem bodyStat_opens : Opens P Q bodyStat :=
  .before (h.line _) fun _ => .select fun _ => k.bind (k.readyLine _) fun _ =>
    k.bind (k.requires _ _ (k.appCommand _ _)) fun _ => k.bind (k.line _) fun _ => k.bind (k.fillers _) fun _ =>
    k.bind (k.requires _ _ (k.receiveRegister _ _)) fun _ => k.line _

end Bodies

end Sys2Proof.Machine
end

section
/-! SUPPORT. How a whole operation ends when no reset arrives (00_scope.md R9, 60_exceptions.md R222 to R224): a body that reaches the
bus selects the card once, the epilogue deselects it once, and DETECT and DEINIT do neither. -/
namespace Sys2Proof.Machine

variable {E : Config → Stop → Prop}

/-! ### Pieces without a chip-select event -/

theorem works_straight : Straight fun _ => Works (Path heldMoves) E where
  pure a := .pure (Path.chain _) a
  bind hm hf := .bind (Path.chain _) hm hf
  get := fun s hn => .of_ok rfl hn (.refl s) (.refl s)
  sync := works_sync (by decide)
  change l hl := by
    have own : ∀ l ∈ ownMoves, l ∈ heldMoves ∧ l ∉ [Label.outside, .reset] := by decide
    exact works_modify l (own l hl).1 (own l hl).2
  xchg o := works_xchg (by decide) o

theorem works_closed : Closed fun _ => Works (Path heldMoves) mayStop where
  toStraight := works_straight
  raise _ := fun s hn => .of_error rfl hn (.refl s) (.refl s) trivial
  memRead a := works_memRead (by decide) a
  memWrite a v := works_memWrite (by decide) a v

theorem at_silent (p : Seq) : Works Silent E (at_ p) :=
  (works_at (L := [.outside, .seq]) (by simp) p).mono (fun _ _ => Path.silent (by decide)) fun _ _ => id

/-! ### Select and Release -/

theorem select_works : Works (Selects [true]) E select := fun s hn =>
  ((works_straight (E := never)).sync s hn).after (R₂ := Selects [true])
    (fun _ t ht _ => .of_ok (t := { t with cs := true, trace := .select :: t.trace }) rfl ht ⟨rfl, rfl, rfl, rfl, rfl, rfl⟩
      ⟨⟨[.select], rfl, rfl⟩, rfl⟩)
    fun _ _ p h => p.held.trans h

/-- A body with one Select selects once. -/
theorem Opens.works {m : Blk Unit}
    (h : Opens (fun _ => Works (Path heldMoves) never) (fun _ => Works (Path heldMoves) mayStop) m) :
    Works (Selects [true]) mayStop m := by
  induction h with
  | select hf =>
    exact fun s hn => (select_works (E := never) s hn).after (fun a t ht _ => hf a t ht) fun _ _ h p => h.trans p.held
  | before hm _ ih => exact fun s hn => (hm s hn).after (fun a t ht _ => ih a t ht) fun _ _ p h => p.held.trans h
  | after _ hf ih =>
    exact fun s hn => (ih s hn).bind (fun a t ht _ => hf a t ht) (fun _ _ h p => h.trans p.held) fun _ _ h k => ⟨h, k⟩

theorem release_works : Works (Selects [false]) never release := fun s hn => by
  have deselect : Works (Selects [false]) never (do modify fun s => { s with cs := false }; emit .deselect : Blk PUnit) :=
    fun s hn => .of_ok (t := { s with cs := false, trace := .deselect :: s.trace }) rfl hn ⟨rfl, rfl, rfl, rfl, rfl, rfl⟩
      ⟨⟨[.deselect], rfl, rfl⟩, rfl⟩
  have trail : Works (Path heldMoves) never (do let _ ← xchg filler; pure () : Blk PUnit) :=
    works_straight.bind (works_straight.xchg _) fun _ => works_straight.pure _
  exact ((works_straight (E := never)).sync s hn).after
    (fun _ t ht _ => (deselect t ht).after (fun _ u hu _ => trail u hu) fun _ _ h p => h.trans p.held)
    fun _ _ p h => p.held.trans h

/-! ### The epilogue -/

theorem epilogue_selected {s : State} (hn : NoReset s) (hc : s.cs = true) : Ends (Selects [false]) never epilogue s := by
  refine (at_silent (E := never) _ s hn).after (R₂ := Selects [false]) (fun _ t ht h => .get_bind ?_)
    fun _ _ h k => h.selects.trans k
  simp only [h.cs.trans hc, if_true]
  refine (at_silent (E := never) _ t ht).after (R₂ := Selects [false]) (fun _ u hu _ => ?_) fun _ _ h k => h.selects.trans k
  exact (release_works u hu).after (fun _ v hv _ => at_silent _ v hv) fun _ _ h k => h.trans k.selects

theorem epilogue_unselected {s : State} (hn : NoReset s) (hc : s.cs = false) : Ends Silent never epilogue s := by
  refine (at_silent (E := never) _ s hn).after (R₂ := Silent) (fun _ t ht h => .get_bind ?_) fun _ _ => Silent.trans
  simp only [h.cs.trans hc, Bool.false_eq_true, if_false]
  exact at_silent _ t ht

/-- Run ends in a completion where its epilogue does not stop (R9, R224). -/
theorem finishRun_completes {R : State → State → Prop} {s : State} (h : Ends R never epilogue s) (o : Result) :
    ∃ u, finishRun o s = complete o u ∧ SameRun s u ∧ R s u := by
  obtain ⟨_, u, hu, -, same, rel⟩ := h.ok
  exact ⟨u, by rw [finishRun, hu], same, rel⟩

/-! ### Run -/

/-- A body that selects once: the run completes with one select and one deselect, or is stuck while the card is selected. -/
theorem run_selects {body : Blk Unit} (hb : Works (Selects [true]) mayStop body) {s : State} (hn : NoReset s) :
    (∃ o u, run body s = complete o u ∧ SameRun s u ∧ Selects [true, false] s u) ∨
    (¬ AllAdmitted s ∧ SameRun s (run body s) ∧ Selects [true] s (run body s)) := by
  obtain ⟨tn, same, sel, stop⟩ := hb s hn
  have finish : ∀ {t : State} (o : Result), NoReset t → SameRun s t → Selects [true] s t →
      ∃ u, finishRun o t = complete o u ∧ SameRun s u ∧ Selects [true, false] s u := fun o tn same sel => by
    obtain ⟨u, hu, same', rel⟩ := finishRun_completes (epilogue_selected tn sel.cs) o
    exact ⟨u, hu, same.trans same', sel.trans rel⟩
  cases hs : body s with
  | ok a t =>
    rw [alone_ok hs] at tn same sel
    exact .inl ⟨.ok, run_ok hs ▸ finish .ok tn same sel⟩
  | error e t =>
    rw [alone_error hs] at tn same sel
    have allowed := stop e t hs
    cases e with
    | raised c => exact .inl ⟨c.outcome, run_raised hs ▸ finish c.outcome tn same sel⟩
    | abandoned => exact allowed.elim
    | stuck => exact .inr (run_stuck hs ▸ ⟨allowed, same, sel⟩)

/-- A body without events that never stops, where the card is not selected: the run completes without an event. -/
theorem run_silent {body : Blk Unit} (hb : Works Silent never body) {s : State} (hn : NoReset s) (hc : s.cs = false) :
    ∃ u, run body s = complete .ok u ∧ SameRun s u ∧ Silent s u := by
  obtain ⟨_, t, ht, tn, same, silent⟩ := (hb s hn).ok
  obtain ⟨u, hu, same', silent'⟩ := finishRun_completes (epilogue_unselected tn (silent.cs.trans hc)) .ok
  exact ⟨u, (run_ok ht).trans hu, same.trans same', silent.trans silent'⟩

/-! ### The bodies of the requests -/

theorem bodyDetect_silent : Works Silent never bodyDetect := by
  have sample : Works Silent never (do let l ← pin; modify fun s => { s with present := l == s.cfg.cdActiveLevel } : Blk PUnit) :=
    fun s hn => .of_ok rfl hn ⟨rfl, rfl, rfl, rfl, rfl, rfl⟩ ⟨rfl, rfl⟩
  have chain : Chain Silent := ⟨.refl, fun _ _ _ => .trans⟩
  exact (at_silent _).bind chain fun _ => sample.bind chain fun _ => at_silent _

theorem bodyDeinit_silent : Works Silent never bodyDeinit := by
  have clear : Works Silent never (setInitOk false) := fun s hn => .of_ok rfl hn ⟨rfl, rfl, rfl, rfl, rfl, rfl⟩ ⟨rfl, rfl⟩
  have chain : Chain Silent := ⟨.refl, fun _ _ _ => .trans⟩
  exact (at_silent _).bind chain fun _ => clear.bind chain fun _ => at_silent _

/-- Every request is a start: of a reserved code, which its pre-check ends; of DETECT or DEINIT, whose body makes no event; or of a
body that selects the card once. -/
theorem exec_start {i : Instr} {op : BitVec 4} (h : i.opCode? = some op) : ∃ body : Blk Unit,
    (∀ s, exec i s = .next (start op body s)) ∧
    ((∀ s, preCheck op s ≠ none) ∨ (i = .detect ∨ i = .deinit) ∧ Works Silent never body ∨
      ¬ (i = .detect ∨ i = .deinit) ∧ Works (Selects [true]) mayStop body) := by
  have reserved : ∀ {op : BitVec 4}, op.toNat = 0 ∨ 0xA < op.toNat → ∀ s, preCheck op s ≠ none := fun ho s => by
    simp [preCheck_reserved ho s]
  cases i <;> simp only [Instr.opCode?, reduceCtorEq, Option.some.injEq] at h <;> subst h <;> refine ⟨_, fun _ => rfl, ?_⟩
  case detect => exact .inr (.inl ⟨.inl rfl, bodyDetect_silent⟩)
  case deinit => exact .inr (.inl ⟨.inr rfl, bodyDeinit_silent⟩)
  case init => exact .inr (.inr ⟨by simp, (bodyInit_opens works_straight works_closed).works⟩)
  case rd1 => exact .inr (.inr ⟨by simp, (bodyRd1_opens works_straight works_closed).works⟩)
  case rdn => exact .inr (.inr ⟨by simp, (bodyRdn_opens works_straight works_closed).works⟩)
  case wr1 => exact .inr (.inr ⟨by simp, (bodyWr1_opens works_straight works_closed).works⟩)
  case wrn => exact .inr (.inr ⟨by simp, (bodyWrn_opens works_straight works_closed).works⟩)
  case erase => exact .inr (.inr ⟨by simp, (bodyErase_opens works_straight works_closed).works⟩)
  case info => exact .inr (.inr ⟨by simp, (bodyInfo_opens works_straight works_closed).works⟩)
  case stat => exact .inr (.inr ⟨by simp, (bodyStat_opens works_straight works_closed).works⟩)
  all_goals exact .inl (reserved (by decide))

/-- How a request on `s` ends when no reset arrives: a start that is ignored (R227), one that a pre-check ends (R223), DETECT and
DEINIT without an event, an operation with one select and one deselect, and one that is stuck while the card is selected (D38). -/
inductive RequestEnds (i : Instr) (op : BitVec 4) (s : State) : State → Prop where
  | ignored (busy : s.busy = true) : RequestEnds i op s s
  | refused (o : Result) (check : preCheck op s ≠ none) : RequestEnds i op s (complete o (latch op s))
  | silent {u : State} (hi : i = .detect ∨ i = .deinit) (same : SameRun (latch op s) u) (rel : Silent s u) :
      RequestEnds i op s (complete .ok u)
  | selected {u : State} (o : Result) (hi : ¬ (s.busy = true ∨ preCheck op s ≠ none ∨ i = .detect ∨ i = .deinit))
      (same : SameRun (latch op s) u) (rel : Selects [true, false] s u) : RequestEnds i op s (complete o u)
  | stuck {u : State} (hi : ¬ (s.busy = true ∨ preCheck op s ≠ none ∨ i = .detect ∨ i = .deinit)) (denied : ¬ AllAdmitted s)
      (same : SameRun (latch op s) u) (rel : Selects [true] s u) : RequestEnds i op s u

theorem exec_requestEnds {i : Instr} {op : BitVec 4} (h : i.opCode? = some op) {s : State} (hc : s.cs = false)
    (hn : NoReset s) : ∃ t, exec i s = .next t ∧ RequestEnds i op s t := by
  obtain ⟨body, hexec, hbody⟩ := exec_start h
  refine ⟨_, hexec s, ?_⟩
  by_cases hb : s.busy = true
  · rw [start_busy hb]; exact .ignored hb
  have hb' : s.busy = false := by simpa using hb
  cases hp : preCheck op s with
  | some c => rw [start_refused hb' body hp]; exact .refused _ (by simp [hp])
  | none =>
    rw [start_runs hb' body hp]
    have same₀ : SameRun (latch op s) { latch op s with seq := firstStatement op } := ⟨rfl, rfl, rfl, rfl, rfl, rfl⟩
    have silent₀ : Silent s { latch op s with seq := firstStatement op } := ⟨rfl, rfl⟩
    obtain hr | ⟨hi, hw⟩ | ⟨hi, hw⟩ := hbody
    · exact absurd hp (hr s)
    · obtain ⟨u, hu, same, rel⟩ := run_silent hw (s := { latch op s with seq := firstStatement op }) hn hc
      rw [hu]; exact .silent hi (same₀.trans same) (silent₀.trans rel)
    · have reaches : ¬ (s.busy = true ∨ preCheck op s ≠ none ∨ i = .detect ∨ i = .deinit) := by simp [hb', hp, hi]
      obtain ⟨o, u, hu, same, rel⟩ | ⟨denied, same, rel⟩ :=
        run_selects hw (s := { latch op s with seq := firstStatement op }) hn
      · rw [hu]; exact .selected o reaches (same₀.trans same) (silent₀.selects.trans rel)
      · exact .stuck reaches denied (same₀.trans same) (silent₀.selects.trans rel)

/-- What a completion leaves of an operation that has released the bus (R222, R224). -/
theorem complete_of_sameRun {op : BitVec 4} {s u : State} (same : SameRun (latch op s) u) (hc : u.cs = false) (o : Result) :
    (complete o u).busy = false ∧ (complete o u).done = true ∧ (complete o u).seq = .idle ∧ (complete o u).cs = false ∧
      (complete o u).lOp = op ∧ (complete o u).lArg0 = s.arg0 ∧ (complete o u).lArg1 = s.arg1 ∧
      (complete o u).lBuf = s.bufbase :=
  ⟨rfl, rfl, rfl, hc, same.lOp, same.lArg0, same.lArg1, same.lBuf⟩

end Sys2Proof.Machine
end

section
/-! SUPPORT. The statements about a whole operation: that it completes, and what it does to the bus. -/
namespace Sys2Proof.Machine

/-- Settles O58: of the ways a request can end, an idle block with every access admitted leaves only completions, each with the bus
released and the latches of the start. -/
theorem everyOperationCompletes : Obligations.EveryOperationCompletes := by
  intro i op s hop hbusy hc admitted hn
  obtain ⟨t, ht, ends⟩ := exec_requestEnds hop hc hn
  refine ⟨t, ht, ?_⟩
  cases ends with
  | ignored busy => simp [hbusy] at busy
  | refused o _ => exact complete_of_sameRun (.refl _) hc o
  | silent _ same rel => exact complete_of_sameRun same (rel.cs.trans hc) .ok
  | selected o _ same rel => exact complete_of_sameRun same rel.cs o
  | stuck _ denied _ _ => exact absurd admitted denied

/-- Settles O59: each way a request can end says which chip-select events it made. -/
theorem oneSelectOneDeselect : Obligations.OneSelectOneDeselect := by
  intro i op s t hop hc hn ht
  obtain ⟨t', ht', ends⟩ := exec_requestEnds hop hc hn
  obtain rfl : t' = t := Host.Outcome.next.inj (ht'.symm.trans ht)
  cases ends with
  | ignored busy => exact ⟨[], rfl, by rw [if_pos (.inl busy)]⟩
  | refused o check => exact ⟨[], rfl, by rw [if_pos (.inr (.inl check))]⟩
  | silent hi _ rel => exact ⟨[], rel.trace, by rw [if_pos (.inr (.inr hi))]⟩
  | selected o hi _ rel =>
    obtain ⟨evs, he, hs⟩ := rel.events
    exact ⟨evs, he, by rw [if_neg hi]; exact .inl hs⟩
  | stuck hi _ same rel =>
    obtain ⟨evs, he, hs⟩ := rel.events
    exact ⟨evs, he, by rw [if_neg hi]; exact .inr ⟨same.busy, hs⟩⟩

end Sys2Proof.Machine
end

section
/-! SUPPORT. What an operation's pieces are built of, with what each may do: `Built I L W` is a piece made of statements, exchanges,
changes of the kinds in `L` and stores to addresses in `W`, where `I` stands. Two inductions over it say what holds of every state such
a piece leaves (`Built.leaves`), and that an access to an operand register disturbs nothing of it. -/
namespace Sys2Proof.Machine

/-! ### The actions between the landing points -/

/-- `s` with other operand registers and other inputs to come: what the requester changes while an operation runs (R23 to R25). -/
def handed (s : State) (a0 a1 bb : Word) (i : List Arrival) : State :=
  { s with arg0 := a0, arg1 := a1, bufbase := bb, inbox := i }

/-- A value that does not depend on the operand registers and the inputs to come. -/
def Deaf {β : Type} (g : State → β) : Prop := ∀ s a0 a1 bb i, g (handed s a0 a1 bb i) = g s

/-- A change of the state that neither depends on them nor touches them. -/
def Keeping (f : State → State) : Prop := ∀ s a0 a1 bb i, f (handed s a0 a1 bb i) = handed (f s) a0 a1 bb i

/-- A value given and a change made at once, a move of kind `l`, whatever the requester does. -/
structure Act {α : Type} (l : Label) (g : State → α) (f : State → State) : Prop where
  moves : ∀ s, Move l s (f s)
  deaf : Deaf g
  keeping : Keeping f

/-- The piece that is this action. -/
def act {α : Type} (g : State → α) (f : State → State) : Blk α := fun s => .ok (g s) (f s)

/-- The kinds of change that make no event. -/
def quietLabels : List Label := .pin :: ownMoves

/-- The kinds of event that touch no buffer memory. -/
def busLabels : List Label := [.exchange, .select, .deselect]

/-- `MemRead` once what arrived is served (R51). -/
def readNow (a : Nat) : Blk Byte := do
  let s ← get
  let a := bufAddr s a
  if inRegions s.cfg.noRead a then throw .stuck
  else
    let (v, s') := racePick s (memGet s.mem a) (oldValues a s.reqOld)
    set s'
    emit (.memRead a v)
    pure v

/-- `MemWrite` once what arrived is served (R51). -/
def writeNow (a : Nat) (v : Byte) : Blk Unit := do
  let s ← get
  let a := bufAddr s a
  if inRegions s.cfg.noWrite a then throw .stuck
  else
    let cur := memGet s.mem a
    let raced := !(oldValues a s.reqOld).isEmpty
    let (w, s') := raceWrite s cur v raced
    let gone := (a, loser cur v w)
    set { s' with
      blkOld := gone :: s.blkOld, reqOld := if raced then gone :: s.reqOld else s.reqOld, mem := memPut s.mem a w }
    emit (.memWrite a v)

theorem memRead_eq (a : Nat) : memRead a = sync >>= fun _ => readNow a := rfl

theorem memWrite_eq (a : Nat) (v : Byte) : memWrite a v = sync >>= fun _ => writeNow a v := rfl

/-- A read of the byte at `a`: one event, and a choice taken only where the byte was raced for (R64). -/
def Reads (a : Nat) (s t : State) : Prop := ∃ v p n,
  t = { s with picks := p, pickCount := n, trace := .memRead (bufAddr s a) v :: s.trace } ∧
    (oldValues (bufAddr s a) s.reqOld = [] → p = s.picks ∧ n = s.pickCount)

/-- A write of the byte at `a`: the move of `Move .memWrite` at this address (R51, R64). -/
def Writes (a : Nat) (s t : State) : Prop := ∃ v x w p n o,
  t = { s with
    picks := p, pickCount := n, blkOld := (bufAddr s a, x) :: s.blkOld, reqOld := o, mem := memPut s.mem (bufAddr s a) w,
    trace := .memWrite (bufAddr s a) v :: s.trace } ∧
  (w = v ∧ x = memGet s.mem (bufAddr s a) ∧ p = s.picks ∧ n = s.pickCount ∧ o = s.reqOld ∨
    oldValues (bufAddr s a) s.reqOld ≠ [] ∧ (w = v ∨ w = memGet s.mem (bufAddr s a)))

theorem Reads.move {a : Nat} {s t : State} (h : Reads a s t) : Move .memRead s t := by
  obtain ⟨v, p, n, e, -⟩ := h
  exact ⟨a, v, p, n, e⟩

theorem Writes.move {a : Nat} {s t : State} (h : Writes a s t) : Move .memWrite s t := by
  obtain ⟨v, h⟩ := h
  exact ⟨a, v, h⟩

theorem readNow_cases (a : Nat) (s : State) :
    readNow a s = .error .stuck s ∨ ∃ v t, readNow a s = .ok v t ∧ Reads a s t := by
  cases hr : inRegions s.cfg.noRead (bufAddr s a) with
  | true => exact .inl (by rw [readNow, blk_bind, blk_get]; simp [hr])
  | false =>
    obtain ⟨p, n, e, he⟩ : ∃ p n, (racePick s (memGet s.mem (bufAddr s a)) (oldValues (bufAddr s a) s.reqOld)).2 =
        { s with picks := p, pickCount := n } ∧
        (oldValues (bufAddr s a) s.reqOld = [] → p = s.picks ∧ n = s.pickCount) := by
      unfold racePick
      split
      · exact ⟨_, _, rfl, fun _ => ⟨rfl, rfl⟩⟩
      · rename_i h; exact ⟨_, _, rfl, fun h' => absurd (by simp [h']) h⟩
    have hread : readNow a s = .ok (racePick s (memGet s.mem (bufAddr s a)) (oldValues (bufAddr s a) s.reqOld)).1 { s with
        picks := p, pickCount := n,
        trace := .memRead (bufAddr s a) (racePick s (memGet s.mem (bufAddr s a)) (oldValues (bufAddr s a) s.reqOld)).1 ::
          s.trace } := by
      rw [readNow, blk_bind, blk_get]
      simp only [hr, Bool.false_eq_true, if_false, e]
      rfl
    exact .inr ⟨_, _, hread, _, p, n, rfl, he⟩

theorem writeNow_cases (a : Nat) (v : Byte) (s : State) :
    writeNow a v s = .error .stuck s ∨ ∃ t, writeNow a v s = .ok () t ∧ Writes a s t := by
  cases hr : inRegions s.cfg.noWrite (bufAddr s a) with
  | true => exact .inl (by rw [writeNow, blk_bind, blk_get]; simp [hr])
  | false =>
    obtain ⟨w, p, n, e, hw, hn⟩ := raceWrite_cases s (memGet s.mem (bufAddr s a)) v
      (!(oldValues (bufAddr s a) s.reqOld).isEmpty)
    have hwrite : writeNow a v s = .ok () { s with
        picks := p, pickCount := n, blkOld := (bufAddr s a, loser (memGet s.mem (bufAddr s a)) v w) :: s.blkOld,
        reqOld := if (!(oldValues (bufAddr s a) s.reqOld).isEmpty) = true then
          (bufAddr s a, loser (memGet s.mem (bufAddr s a)) v w) :: s.reqOld else s.reqOld,
        mem := memPut s.mem (bufAddr s a) w, trace := .memWrite (bufAddr s a) v :: s.trace } := by
      rw [writeNow, blk_bind, blk_get]
      simp only [hr, Bool.false_eq_true, if_false, e]
      rfl
    refine .inr ⟨_, hwrite, v, _, w, p, n, _, rfl, ?_⟩
    cases ho : oldValues (bufAddr s a) s.reqOld with
    | nil =>
      obtain ⟨rfl, rfl, rfl⟩ := hn (by rw [ho]; rfl)
      exact .inl ⟨rfl, if_pos rfl, rfl, rfl, rfl⟩
    | cons x l => exact .inr ⟨by simp, hw⟩

/-! ### What a piece is built of -/

/-- A piece of the sequencer's work, by what it is made of: changes of the kinds in `L` (the try and byte counters always), buffer
writes at addresses of `W`, and no reading of what the requester may change. `I` is what stands of every state it runs on. A cause
that is raised is one of R221's failures, unless the piece works with RES. -/
inductive Built (I : State → Prop) (L : List Label) (W : Nat → Prop) : {α : Type} → Blk α → Prop where
  | pure {α : Type} (a : α) : Built I L W (pure a : Blk α)
  | bind {α β : Type} {m : Blk α} {f : α → Blk β} (hm : Built I L W m) (hf : ∀ a, Built I L W (f a)) : Built I L W (m >>= f)
  | get {α : Type} {f : State → Blk α} (deaf : Deaf f) (hf : ∀ s, I s → Built I L W (f s)) :
      Built I L W ((MonadState.get : Blk State) >>= f)
  | sync : Built I L W sync
  | own {α : Type} (l : Label) (hl : l ∈ L) (hq : l ∈ quietLabels) {g : State → α} {f : State → State} (h : Act l g f) :
      Built I L W (act g f)
  | count {f : State → State} (h : ∀ s, ∃ a b, f s = { s with tries := a, byteIdx := b }) (keeping : Keeping f) :
      Built I L W (modify f : Blk PUnit)
  | event {α : Type} (l : Label) (hl : l ∈ L) (hb : l ∈ busLabels) {g : State → α} {f : State → State} (h : Act l g f)
      (one : ∀ s, (f s).trace.length = s.trace.length + 1) :
      Built I L W (sync >>= fun _ => act g f)
  | raise (c : Cause) (h : c.outcome = .fail ∨ .counters ∈ L) : Built I L W (raise c)
  | memRead (h : .memRead ∈ L) (a : Nat) : Built I L W (memRead a)
  | memWrite (h : .memWrite ∈ L) (a : Nat) (ha : W a) (v : Byte) : Built I L W (memWrite a v)

variable {I : State → Prop} {L : List Label} {W : Nat → Prop}

/-! ### The primitives -/

/-- The rest of a piece that goes on with a value read from the state. -/
theorem Built.read {β : Type} {g : State → β} (deaf : Deaf g) : Built I L W (do let s ← MonadState.get; Pure.pure (g s) : Blk β) :=
  .get (fun s a0 a1 bb i => by rw [deaf s]) fun _ _ => .pure _

theorem Built.ite {α : Type} {c : Prop} [Decidable c] {a b : Blk α} (ha : Built I L W a) (hb : Built I L W b) :
    Built I L W (if c then a else b) := by
  split
  · exact ha
  · exact hb

theorem Built.change {f : State → State} (l : Label) (hl : l ∈ L) (hq : l ∈ quietLabels) (h : ∀ s, Move l s (f s))
    (keeping : Keeping f) : Built I L W (modify f : Blk PUnit) :=
  .own l hl hq (g := fun _ => PUnit.unit) ⟨h, fun _ _ _ _ _ => rfl, keeping⟩

theorem setTries_built (n : Nat) : Built I L W (setTries n) := .count (fun s => ⟨n, s.byteIdx, rfl⟩) fun _ _ _ _ _ => rfl

theorem setByteIdx_built (i : Nat) : Built I L W (setByteIdx i) := .count (fun s => ⟨s.tries, i, rfl⟩) fun _ _ _ _ _ => rfl

theorem setSector_built (h : .counters ∈ L) (k : Nat) : Built I L W (setSector k) :=
  .change .counters h (by decide) (fun s => ⟨s.tries, k, s.byteIdx, s.res, rfl⟩) fun _ _ _ _ _ => rfl

theorem setRes_built (h : .counters ∈ L) (r : Accum) : Built I L W (setRes r) :=
  .change .counters h (by decide) (fun s => ⟨s.tries, s.sector, s.byteIdx, r, rfl⟩) fun _ _ _ _ _ => rfl

theorem setFamily_built (h : .family ∈ L) (f : Family) : Built I L W (setFamily f) :=
  .change .family h (by decide) (fun _ => ⟨f, rfl⟩) fun _ _ _ _ _ => rfl

theorem setInitOk_built (h : .initOk ∈ L) (b : Bool) : Built I L W (setInitOk b) :=
  .change .initOk h (by decide) (fun _ => ⟨b, rfl⟩) fun _ _ _ _ _ => rfl

theorem moveSeq_built (h : .seq ∈ L) (p : Seq) : Built I L W (moveSeq p) :=
  .change .seq h (by decide) (fun _ => ⟨p, rfl⟩) fun _ _ _ _ _ => rfl

theorem at_built (h : .seq ∈ L) (p : Seq) : Built I L W (at_ p) := (moveSeq_built h p).bind fun _ => .sync

theorem part_built (h : .seq ∈ L) (n k : Nat) : Built I L W (part n k) := at_built h _

theorem line_built (h : .seq ∈ L) (n : Nat) : Built I L W (line n) := at_built h _

theorem initAt_built (h : .seq ∈ L) (st : InitState) (n k : Nat) : Built I L W (initAt st n k) := at_built h _

theorem xchg_built (h : .exchange ∈ L) (o : Byte) : Built I L W (xchg o) :=
  .event .exchange h (by decide) (g := cardAnswer)
    (f := fun s => { s with card := s.card.tail, trace := .xchg o (cardAnswer s) :: s.trace, xchgs := s.xchgs + 1 })
    ⟨fun s => ⟨o, cardAnswer s, s.card.tail, rfl⟩, fun _ _ _ _ _ => rfl, fun _ _ _ _ _ => rfl⟩ fun _ => rfl

theorem receive_built (h : .exchange ∈ L) (i : Byte) : Built I L W (receive i) :=
  .event .exchange h (by decide) (g := fun _ => PUnit.unit)
    (f := fun s => { s with trace := .xchg filler i :: s.trace, xchgs := s.xchgs + 1 })
    ⟨fun s => ⟨filler, i, s.card, rfl⟩, fun _ _ _ _ _ => rfl, fun _ _ _ _ _ => rfl⟩ fun _ => rfl

theorem select_built (h : .select ∈ L) : Built I L W select :=
  .event .select h (by decide) (g := fun _ => PUnit.unit) (f := fun s => { s with cs := true, trace := .select :: s.trace })
    ⟨fun _ => rfl, fun _ _ _ _ _ => rfl, fun _ _ _ _ _ => rfl⟩ fun _ => rfl

/-- `R.CS <- 0` (R101). -/
def deselect : Blk PUnit :=
  sync >>= fun _ => act (fun _ => PUnit.unit) fun s => { s with cs := false, trace := .deselect :: s.trace }

/-- Release is the deselect and the trailing byte (R101). -/
theorem release_eq : release = deselect >>= fun _ => (xchg filler >>= fun _ => Pure.pure ()) := by
  rw [deselect, bind_assoc]; rfl

theorem release_built (hd : .deselect ∈ L) (hx : .exchange ∈ L) : Built I L W release :=
  release_eq ▸ (Built.event .deselect hd (by decide) (g := fun _ => PUnit.unit)
    (f := fun s => { s with cs := false, trace := .deselect :: s.trace })
    ⟨fun _ => rfl, fun _ _ _ _ _ => rfl, fun _ _ _ _ _ => rfl⟩ fun _ => rfl).bind fun _ =>
      (xchg_built hx filler).bind fun _ => .pure PUnit.unit

theorem pin_built (h : .pin ∈ L) : Built I L W pin :=
  .own .pin h (by decide) (g := fun s => (match s.pins with | [] => Config.pinLevel s.pinReads | p :: _ => p : Bool))
    (f := fun s => { s with pins := s.pins.tail, pinReads := s.pinReads + 1 })
    ⟨fun s => ⟨_, _, s.present, rfl⟩, fun _ _ _ _ _ => rfl, fun _ _ _ _ _ => rfl⟩

end Sys2Proof.Machine
end

section
/-! SUPPORT. Every primitive of Machine/Engine.lean, every body and the epilogue is built of the pieces of `Built`: with the kinds of
change that its rule lists under "State written", and with the buffer addresses it stores to. -/
namespace Sys2Proof.Machine

variable {I : State → Prop} {L : List Label} {W : Nat → Prop}

/-- The rest of a piece that goes on with a value read from the state. -/
theorem Built.read_bind {α β : Type} {g : State → β} {f : β → Blk α} (deaf : Deaf g) (hf : ∀ s, I s → Built I L W (f (g s))) :
    Built I L W ((do let s ← MonadState.get; Pure.pure (g s) : Blk β) >>= f) := by
  have go : Built I L W ((MonadState.get : Blk State) >>= fun s => f (g s)) :=
    .get (fun s a0 a1 bb i => by rw [deaf s]) hf
  exact go

theorem isAccepted_built {m : Blk Byte} (hm : Built I L W m) : Built I L W (isAccepted m) := hm.bind fun _ => .pure _

theorem takeDresp_built (hd : .dresp ∈ L) (d : Byte) : Built I L W (takeDresp d) :=
  (Built.change .dresp hd (by decide) (fun _ => ⟨d, rfl⟩) fun _ _ _ _ _ => rfl).bind fun _ => .pure _

/-! ### Commands and waits -/

section Bus
variable (hx : .exchange ∈ L)
include hx

theorem fillers_built (n : Nat) : Built I L W (fillers n) := by
  induction n with
  | zero => exact .pure ()
  | succ n ih => exact (xchg_built hx _).bind fun _ => ih

theorem sendBytes_built (bs : List Byte) : Built I L W (sendBytes bs) := by
  induction bs with
  | nil => exact .pure ()
  | cons b bs ih => exact (xchg_built hx b).bind fun _ => ih

theorem pollResponse_built (n : Nat) : ∀ last, Built I L W (pollResponse n last) := by
  induction n with
  | zero => exact fun _ => .pure _
  | succ n ih => exact fun _ => (xchg_built hx _).bind fun r => (setTries_built n).bind fun _ => .ite (.pure r) (ih r)

theorem sendCommand_built (hr : .lastR1 ∈ L) (idx : Byte) (arg : Word) (crc : Byte) : Built I L W (sendCommand idx arg crc) :=
  (sendBytes_built hx _).bind fun _ => (Built.ite (fillers_built hx 1) (.pure ())).bind fun _ => .get (fun _ _ _ _ _ => rfl) fun _ _ =>
    (setTries_built _).bind fun _ => (pollResponse_built hx _ _).bind fun r =>
    (Built.change .lastR1 hr (by decide) (fun _ => ⟨r, rfl⟩) fun _ _ _ _ _ => rfl).bind fun _ => .pure r

theorem appCommand_built (hr : .lastR1 ∈ L) (idx : Byte) (arg : Word) : Built I L W (appCommand idx arg) :=
  (sendCommand_built hx hr _ _ _).bind fun _ => .ite ((sendCommand_built hx hr _ _ _).bind fun _ => .pure _) (.pure _)

theorem receiveExt_built (he : .ext ∈ L) (j : Fin 4) : Built I L W (receiveExt j) :=
  (xchg_built hx _).bind fun b =>
    .change .ext he (by decide) (fun s => ⟨s.ext.set j b, s.ext32, rfl⟩) fun _ _ _ _ _ => rfl

theorem getExtendedResponse_built (he : .ext ∈ L) : Built I L W getExtendedResponse :=
  (receiveExt_built hx he 0).bind fun _ => (receiveExt_built hx he 1).bind fun _ => (receiveExt_built hx he 2).bind fun _ =>
    (receiveExt_built hx he 3).bind fun _ => .get (fun _ _ _ _ _ => rfl) fun s _ =>
    (Built.change .ext he (by decide) (fun t => ⟨t.ext, extValue s.ext, rfl⟩) fun _ _ _ _ _ => rfl).bind fun _ => .pure _

theorem waitUntil_built (p : Byte → Bool) (n : Nat) : ∀ last, Built I L W (waitUntil p n last) := by
  induction n with
  | zero => exact fun _ => .pure _
  | succ n ih => exact fun _ => (xchg_built hx _).bind fun b => (setTries_built n).bind fun _ => .ite (.pure _) (ih b)

theorem waitFor_built (p : Byte → Bool) (n : Nat) : Built I L W (waitFor p n) :=
  (setTries_built n).bind fun _ => waitUntil_built hx p n _

theorem waitIdle_built : Built I L W waitIdle :=
  .get (fun _ _ _ _ _ => rfl) fun _ _ => (waitFor_built hx _ _).bind fun _ => .pure _

theorem waitToken_built : Built I L W waitToken :=
  .get (fun _ _ _ _ _ => rfl) fun _ _ => (waitFor_built hx _ _).bind fun _ => .pure _

theorem waitWriteBusy_built : Built I L W waitWriteBusy :=
  .get (fun _ _ _ _ _ => rfl) fun _ _ => (waitFor_built hx _ _).bind fun _ => .pure _

theorem waitEraseBusy_built : Built I L W waitEraseBusy :=
  .get (fun _ _ _ _ _ => rfl) fun _ _ => (waitFor_built hx _ _).bind fun _ => .pure _

theorem writeGap_built : Built I L W writeGap := .get (fun _ _ _ _ _ => rfl) fun _ _ => fillers_built hx _

/-! ### Data blocks -/

theorem receivePayload_built (hm : .memWrite ∈ L) (dest n : Nat) :
    ∀ i, (∀ j, i ≤ j → j < i + n → W (dest + j)) → Built I L W (receivePayload dest i n) := by
  induction n with
  | zero => exact fun _ _ => .pure ()
  | succ n ih =>
    exact fun i hw => (setByteIdx_built i).bind fun _ => (xchg_built hx _).bind fun b =>
      (Built.memWrite hm _ (hw i (by omega) (by omega)) b).bind fun _ => ih (i + 1) fun j h1 h2 => hw j (by omega) (by omega)

theorem dataReceive_built (hm : .memWrite ∈ L) (len dest : Nat) (hw : ∀ j, j < len → W (dest + j)) :
    Built I L W (dataReceive len dest) :=
  (waitToken_built hx).bind fun _ => .ite ((receivePayload_built hx hm _ _ 0 fun j _ h => hw j (by omega)).bind fun _ =>
    (fillers_built hx 2).bind fun _ => .pure _) (.pure _)

/-- A block of `len` bytes received to `L_BUF + off` (R52, R53). -/
theorem receiveRegister_built (hm : .memWrite ∈ L) {b : Nat} (hb : ∀ s, I s → s.lBuf.toNat = b) (len off : Nat)
    (hw : ∀ j, off ≤ j → j < off + len → W (b + j)) : Built I L W (receiveRegister len off) :=
  .read_bind (g := fun s => bufOff s off) (fun _ _ _ _ _ => rfl) fun s hs => dataReceive_built hx hm _ _ fun j h => by
    rw [bufOff, hb s hs, Nat.add_assoc]; exact hw _ (by omega) (by omega)

theorem receiveSector_built (hm : .memWrite ∈ L) {b : Nat} (hb : ∀ s, I s → s.lBuf.toNat = b) (k : Nat)
    (hw : ∀ j, 512 * k ≤ j → j < 512 * (k + 1) → W (b + j)) : Built I L W (receiveSector k) :=
  receiveRegister_built hx hm hb 512 (512 * k) fun j h1 h2 => hw j h1 (by omega)

theorem sendPayload_built (hm : .memRead ∈ L) (src n : Nat) : ∀ i, Built I L W (sendPayload src i n) := by
  induction n with
  | zero => exact fun _ => .pure ()
  | succ n ih =>
    exact fun i => (setByteIdx_built i).bind fun _ => (Built.memRead hm _).bind fun b => (xchg_built hx b).bind fun _ => ih (i + 1)

theorem sendSector_built (hm : .memRead ∈ L) (hd : .dresp ∈ L) (token : Byte) (k : Nat) : Built I L W (sendSector token k) :=
  .read_bind (g := fun s => bufOff s (512 * k)) (fun _ _ _ _ _ => rfl) fun _ _ => (xchg_built hx token).bind fun _ =>
    (sendPayload_built hx hm _ _ _).bind fun _ => (fillers_built hx 2).bind fun _ => (xchg_built hx _).bind fun d =>
    takeDresp_built hd d

end Bus

/-! ### Lines -/

/-- A line that may raise its cause: every cause but FAMILY_UNSUPPORTED is a failure (R221). -/
theorem require_built (hs : .seq ∈ L) (n : Nat) {c : Cause} (hc : c.outcome = .fail) {m : Blk Bool} (hm : Built I L W m) :
    Built I L W (require n c m) :=
  (line_built hs n).bind fun _ => hm.bind fun _ => .ite (.pure ()) ((part_built hs n 2).bind fun _ => .raise c (.inl hc))

theorem returnRes_built (hc : .counters ∈ L) : Built I L W returnRes := by
  refine .get (fun _ _ _ _ _ => rfl) fun s _ => ?_
  cases s.res with
  | ok => exact .pure ()
  | failed c => exact .raise c (.inr hc)

/-- The kinds of change of a line that commands the card. -/
def lineLabels : List Label := [.seq, .exchange, .lastR1]

section Lines
variable (h : lineLabels ⊆ L)
include h

theorem readyLine_built (n : Nat) : Built I L W (require n .readyTimeout waitIdle) :=
  require_built (h (by decide)) n rfl (waitIdle_built (h (by decide)))

theorem command_built (idx : Byte) (arg : Word) (crc : Byte) : Built I L W (sendCommand idx arg crc) :=
  sendCommand_built (h (by decide)) (h (by decide)) _ _ _

theorem commandLine_built (n : Nat) (idx : Byte) (arg : Word) :
    Built I L W (require n .cmdRejected (isAccepted (sendCommand idx arg 0x00#8))) :=
  require_built (h (by decide)) n rfl (isAccepted_built (command_built h _ _ _))

theorem appLine_built (n : Nat) (idx : Byte) (arg : Word) : Built I L W (require n .cmdRejected (appCommand idx arg)) :=
  require_built (h (by decide)) n rfl (appCommand_built (h (by decide)) (h (by decide)) _ _)

theorem testLine_built (n : Nat) {c : Cause} (hc : c.outcome = .fail) (b : Bool) : Built I L W (require n c (pure b)) :=
  require_built (h (by decide)) n hc (.pure b)

end Lines

end Sys2Proof.Machine
end

section
/-! SUPPORT. Each operation as a program: a first statement, and a rest built of the kinds of change and the buffer addresses its rule
gives it. -/
namespace Sys2Proof.Machine

/-- The kinds of change an instruction makes itself, the try and byte counters apart: what its rule lists under "State written". -/
def labelsOf : Instr → List Label
  | .detect => [.seq, .pin]
  | .deinit => [.seq, .initOk]
  | .init => lineLabels ++ [.select, .ext, .family, .initOk]
  | .rd1 | .stat => lineLabels ++ [.select, .memWrite]
  | .rdn => lineLabels ++ [.select, .memWrite, .counters]
  | .wr1 => lineLabels ++ [.select, .memRead, .dresp]
  | .wrn => lineLabels ++ [.select, .memRead, .dresp, .counters]
  | .erase => lineLabels ++ [.select]
  | .info => lineLabels ++ [.select, .memWrite, .csd, .capkb, .blksize]
  | .reserved0 | .reservedB | .reservedC | .reservedD | .reservedE | .reservedF => []
  | .cmd0 _ _ | .cmd1 _ _ | .cmd8 _ _ | .cmd9 _ _ | .cmd10 _ _ | .cmd12 _ _ | .acmd13 _ _ => [.exchange, .lastR1]
  | .cmd16 _ _ | .cmd17 _ _ | .cmd18 _ _ | .cmd23 _ _ | .cmd24 _ _ | .cmd25 _ _ | .cmd32 _ _ => [.exchange, .lastR1]
  | .cmd33 _ _ | .cmd38 _ _ | .acmd41 _ _ | .acmd51 _ _ | .cmd55 _ _ | .cmd58 _ _ => [.exchange, .lastR1]
  | .r1 _ => [.exchange, .lastR1]
  | .tokenStartBlock | .tokenMultiWrite | .tokenStopTran => [.exchange]
  | .drespAccepted _ _ | .drespCrcRejected _ _ | .drespWriteError _ _ => [.exchange, .dresp]

/-- What stands of every state of the operation `i` started in `s₀`: the latches its addresses come from, and the family (R31, R35). -/
structure Underway (i : Instr) (s₀ s : State) : Prop where
  lBuf : s.lBuf = s₀.bufbase
  lArg1 : s.lArg1 = s₀.arg1
  family : i ≠ .init → s.family = s₀.family

/-- The buffer addresses the operation `i` started in `s₀` stores to, before the wrap (R52, R53). -/
def StoredBy (i : Instr) (s₀ : State) (a : Nat) : Prop := ∃ j, j < storeLength s₀ i ∧ a = s₀.bufbase.toNat + j

/-- A body: its first statement, where what arrives can land before any event, and the rest. -/
def Program (I : State → Prop) (L : List Label) (W : Nat → Prop) (body : Blk Unit) : Prop :=
  ∃ (p : Seq) (f : Unit → Blk Unit), body = (at_ p >>= f) ∧ .seq ∈ L ∧ ∀ a, Built I L W (f a)

variable {I : State → Prop} {L : List Label} {W : Nat → Prop}

/-- A body that starts at a line. -/
theorem Program.line (h : .seq ∈ L) {n : Nat} {f : Unit → Blk Unit} (hf : ∀ a, Built I L W (f a)) :
    Program I L W (line n >>= f) := ⟨_, f, rfl, h, hf⟩

theorem Program.built {body : Blk Unit} (h : Program I L W body) : Built I L W body := by
  obtain ⟨p, f, rfl, hs, hf⟩ := h
  exact (at_built hs p).bind hf

/-! ### The epilogue -/

/-- The kinds of change of the epilogue of Run. -/
def epilogueLabels : List Label := [.seq, .exchange, .deselect]

theorem epilogue_built (h : epilogueLabels ⊆ L) : Built I L W epilogue :=
  (at_built (h (by decide)) _).bind fun _ => .get (fun _ _ _ _ _ => rfl) fun _ _ => .ite
    ((at_built (h (by decide)) _).bind fun _ => (release_built (h (by decide)) (h (by decide))).bind fun _ =>
      at_built (h (by decide)) _)
    (at_built (h (by decide)) _)

/-! ### Presence, initialization, deinitialization -/

theorem bodyDetect_program : Program I (labelsOf .detect) W bodyDetect :=
  .line (by decide) fun _ => (pin_built (by decide)).bind fun l =>
    (Built.change .pin (by decide) (by decide) (fun s => ⟨s.pins, s.pinReads, l == s.cfg.cdActiveLevel, rfl⟩)
      fun _ _ _ _ _ => rfl).bind fun _ => line_built (by decide) 2

theorem bodyDeinit_program : Program I (labelsOf .deinit) W bodyDeinit :=
  .line (by decide) fun _ => (setInitOk_built (by decide) false).bind fun _ => line_built (by decide) 2

section Init
variable (h : lineLabels ⊆ L)
include h

theorem statement_built (st : InitState) (n k : Nat) : Built I L W (initAt st n k) := initAt_built (h (by decide)) st n k

theorem lastTry_built (st : InitState) (l n : Nat) {c : Cause} (hc : c.outcome = .fail) : Built I L W (lastTry st l n c) :=
  (statement_built h _ _ _).bind fun _ => (setTries_built n).bind fun _ => (statement_built h _ _ _).bind fun _ =>
    .ite ((statement_built h _ _ _).bind fun _ => .raise c (.inl hc)) (.pure ())

theorem spiIdleLoop_built (n : Nat) : Built I L W (spiIdleLoop n) := by
  induction n with
  | zero => exact .raise _ (.inl rfl)
  | succ n ih =>
    exact (statement_built h _ _ _).bind fun _ => (statement_built h _ _ _).bind fun _ => (command_built h _ _ _).bind fun _ =>
      (statement_built h _ _ _).bind fun _ => .ite (statement_built h _ _ _)
        ((lastTry_built h _ _ _ rfl).bind fun _ => ih)

theorem setCandidate_built (hf : .family ∈ L) (st : InitState) (n m : Nat) (f : Family) :
    Built I L W (do initAt st n 1; setFamily f; initAt st m 1 : Blk Unit) :=
  (statement_built h _ _ _).bind fun _ => (setFamily_built hf f).bind fun _ => statement_built h _ _ _

theorem voltageCheckLoop_built (hf : .family ∈ L) (he : .ext ∈ L) (n : Nat) : Built I L W (voltageCheckLoop n) := by
  induction n with
  | zero => exact .raise _ (.inl rfl)
  | succ n ih =>
    exact (statement_built h _ _ _).bind fun _ => (statement_built h _ _ _).bind fun _ => (command_built h _ _ _).bind fun _ =>
      (statement_built h _ _ _).bind fun _ => .ite (setCandidate_built h hf _ _ _ _)
        ((statement_built h _ _ _).bind fun _ => (getExtendedResponse_built (h (by decide)) he).bind fun _ =>
          (statement_built h _ _ _).bind fun _ => .ite (setCandidate_built h hf _ _ _ _)
            ((lastTry_built h _ _ _ rfl).bind fun _ => ih))

theorem activateLoop_built (hf : .family ∈ L) (hcs : Word) (n : Nat) : Built I L W (activateLoop hcs n) := by
  induction n with
  | zero => exact .raise _ (.inl rfl)
  | succ n ih =>
    exact (statement_built h _ _ _).bind fun _ => (statement_built h _ _ _).bind fun _ => (command_built h _ _ _).bind fun _ =>
      (statement_built h _ _ _).bind fun _ => .ite (setCandidate_built h hf _ _ _ _)
        ((statement_built h _ _ _).bind fun _ => (command_built h _ _ _).bind fun _ => (statement_built h _ _ _).bind fun _ =>
          .ite ((lastTry_built h _ _ _ rfl).bind fun _ => ih) (statement_built h _ _ _))

theorem mmcActivateLoop_built (n : Nat) : Built I L W (mmcActivateLoop n) := by
  induction n with
  | zero => exact .raise _ (.inl rfl)
  | succ n ih =>
    exact (statement_built h _ _ _).bind fun _ => (statement_built h _ _ _).bind fun _ => (command_built h _ _ _).bind fun _ =>
      (statement_built h _ _ _).bind fun _ => .ite ((lastTry_built h _ _ _ rfl).bind fun _ => ih) (statement_built h _ _ _)

theorem spiIdle_built (hs : .select ∈ L) : Built I L W spiIdle :=
  (statement_built h _ _ _).bind fun _ => (select_built hs).bind fun _ => (statement_built h _ _ _).bind fun _ =>
    .get (fun _ _ _ _ _ => rfl) fun _ _ => (setTries_built _).bind fun _ => spiIdleLoop_built h _

theorem voltageCheck_built (hf : .family ∈ L) (he : .ext ∈ L) : Built I L W voltageCheck :=
  (statement_built h _ _ _).bind fun _ => .get (fun _ _ _ _ _ => rfl) fun _ _ => (setTries_built _).bind fun _ =>
    voltageCheckLoop_built h hf he _

theorem activate_built (hf : .family ∈ L) : Built I L W activate :=
  (statement_built h _ _ _).bind fun _ => .get (fun _ _ _ _ _ => rfl) fun _ _ => (statement_built h _ _ _).bind fun _ =>
    .get (fun _ _ _ _ _ => rfl) fun _ _ => (setTries_built _).bind fun _ => activateLoop_built h hf _ _

theorem askCapacity_built (hf : .family ∈ L) (he : .ext ∈ L) : Built I L W askCapacity :=
  (statement_built h _ _ _).bind fun _ => (command_built h _ _ _).bind fun _ => (statement_built h _ _ _).bind fun _ =>
    (getExtendedResponse_built (h (by decide)) he).bind fun _ => (statement_built h _ _ _).bind fun _ =>
    .ite ((statement_built h _ _ _).bind fun _ => setFamily_built hf _) (.pure ())

theorem resolveFamily_built (hf : .family ∈ L) (he : .ext ∈ L) : Built I L W resolveFamily :=
  (statement_built h _ _ _).bind fun _ => .get (fun _ _ _ _ _ => rfl) fun _ _ => .ite
    ((statement_built h _ _ _).bind fun _ => .get (fun _ _ _ _ _ => rfl) fun _ _ => (setTries_built _).bind fun _ =>
      mmcActivateLoop_built h _)
    ((statement_built h _ _ _).bind fun _ => .get (fun _ _ _ _ _ => rfl) fun _ _ => .ite (askCapacity_built h hf he) (.pure ()))

theorem fixBlockLen_built : Built I L W fixBlockLen :=
  (statement_built h _ _ _).bind fun _ => .get (fun _ _ _ _ _ => rfl) fun _ _ => .ite (.pure ())
    ((statement_built h _ _ _).bind fun _ => (command_built h _ _ _).bind fun _ => (statement_built h _ _ _).bind fun _ =>
      .ite (.pure ()) ((statement_built h _ _ _).bind fun _ => .raise _ (.inl rfl)))

end Init

/-- INIT after its first statement. -/
def initRest : Blk Unit := do
  clearCard
  initAt .rampUp 3 1
  fillers (← get).cfg.rampUpBytes
  spiIdle
  voltageCheck
  activate
  resolveFamily
  fixBlockLen
  initAt .ready 55 1
  setInitOk true
  initAt .ready 56 1

theorem bodyInit_eq : bodyInit = initAt .rampUp 1 1 >>= fun _ => initRest := by
  simp only [bodyInit, rampUp, initRest, bind_assoc]

theorem bodyInit_program : Program I (labelsOf .init) W bodyInit := by
  have h : lineLabels ⊆ labelsOf .init := by decide
  refine ⟨.init .rampUp 1 1, fun _ => initRest, bodyInit_eq, by decide, fun _ => ?_⟩
  refine Built.bind ((setFamily_built (by decide) _).bind fun _ => (moveSeq_built (by decide) _).bind fun _ =>
    setInitOk_built (by decide) _) fun _ => ?_
  exact (statement_built h _ _ _).bind fun _ => .get (fun _ _ _ _ _ => rfl) fun _ _ => (fillers_built (by decide) _).bind fun _ =>
    (spiIdle_built h (by decide)).bind fun _ => (voltageCheck_built h (by decide) (by decide)).bind fun _ =>
    (activate_built h (by decide)).bind fun _ => (resolveFamily_built h (by decide) (by decide)).bind fun _ =>
    (fixBlockLen_built h).bind fun _ => (statement_built h _ _ _).bind fun _ => (setInitOk_built (by decide) _).bind fun _ =>
    statement_built h _ _ _

/-! ### Block transfers -/

section Transfers
variable {b : Nat} (hb : ∀ s, I s → s.lBuf.toNat = b)

theorem firstAddress_built : Built I L W firstAddress := .read fun _ _ _ _ _ => rfl

theorem lastAddress_built : Built I L W lastAddress := .read fun _ _ _ _ _ => rfl

include hb in
theorem bodyRd1_program (hw : ∀ j, j < 512 → W (b + j)) : Program I (labelsOf .rd1) W bodyRd1 := by
  have h : lineLabels ⊆ labelsOf .rd1 := by decide
  exact .line (by decide) fun _ => firstAddress_built.bind fun _ => (line_built (by decide) _).bind fun _ =>
    (select_built (by decide)).bind fun _ => (readyLine_built h _).bind fun _ => (line_built (by decide) _).bind fun _ =>
    (command_built h _ _ _).bind fun _ => (testLine_built h _ rfl _).bind fun _ =>
    (require_built (by decide) _ rfl (receiveSector_built (by decide) (by decide) hb 0 fun j _ h => hw j (by omega))).bind
      fun _ => line_built (by decide) _

include hb in
theorem rdnLoop_built (n : Nat) : ∀ k, (∀ j, 512 * k ≤ j → j < 512 * (k + n) → W (b + j)) →
    Built I (labelsOf .rdn) W (rdnLoop k n) := by
  induction n with
  | zero => exact fun _ _ => line_built (by decide) 7
  | succ n ih =>
    exact fun k hw => (line_built (by decide) 7).bind fun _ => (setSector_built (by decide) k).bind fun _ =>
      (line_built (by decide) 8).bind fun _ =>
      (receiveSector_built (by decide) (by decide) hb k fun j h1 h2 => hw j h1 (by omega)).bind fun _ =>
      .ite (ih (k + 1) fun j h1 h2 => hw j (by omega) (by omega))
        ((line_built (by decide) 9).bind fun _ => (setRes_built (by decide) _).bind fun _ => line_built (by decide) 10)

theorem checkStop_built (hs : .seq ∈ L) (hc : .counters ∈ L) (r : Byte) : Built I L W (checkStop r) :=
  (line_built hs 12).bind fun _ => .get (fun _ _ _ _ _ => rfl) fun _ _ =>
    .ite ((part_built hs 12 2).bind fun _ => setRes_built hc _) (.pure ())

include hb in
theorem bodyRdn_program {n : Word} (hn : ∀ s, I s → s.lArg1 = n) (hw : ∀ j, j < 512 * n.toNat → W (b + j)) :
    Program I (labelsOf .rdn) W bodyRdn := by
  have h : lineLabels ⊆ labelsOf .rdn := by decide
  refine .line (by decide) fun _ => firstAddress_built.bind fun _ => (part_built (by decide) _ _).bind fun _ =>
    .read_bind (g := State.lArg1) (fun _ _ _ _ _ => rfl) fun s hs => ?_
  exact (line_built (by decide) _).bind fun _ => (select_built (by decide)).bind fun _ => (readyLine_built h _).bind fun _ =>
    (line_built (by decide) _).bind fun _ => (command_built h _ _ _).bind fun _ => (testLine_built h _ rfl _).bind fun _ =>
    (line_built (by decide) _).bind fun _ => (setRes_built (by decide) _).bind fun _ =>
    (rdnLoop_built hb _ 0 fun j _ hj => hw j (by rw [hn s hs] at hj; omega)).bind fun _ => (line_built (by decide) _).bind fun _ =>
    (command_built h _ _ _).bind fun _ => (checkStop_built (by decide) (by decide) _).bind fun _ =>
    (line_built (by decide) _).bind fun _ => returnRes_built (by decide)

theorem bodyWr1_program : Program I (labelsOf .wr1) W bodyWr1 := by
  have h : lineLabels ⊆ labelsOf .wr1 := by decide
  exact .line (by decide) fun _ => firstAddress_built.bind fun _ => (line_built (by decide) _).bind fun _ =>
    (select_built (by decide)).bind fun _ => (readyLine_built h _).bind fun _ => (line_built (by decide) _).bind fun _ =>
    (command_built h _ _ _).bind fun _ => (testLine_built h _ rfl _).bind fun _ => (line_built (by decide) _).bind fun _ =>
    (writeGap_built (by decide)).bind fun _ =>
    (require_built (by decide) _ rfl (sendSector_built (by decide) (by decide) (by decide) _ _)).bind fun _ =>
    (require_built (by decide) _ rfl (waitWriteBusy_built (by decide))).bind fun _ => line_built (by decide) _

theorem announceUnlessMmc_built (h : lineLabels ⊆ L) (n : Word) : Built I L W (announceUnlessMmc n) :=
  (line_built (h (by decide)) _).bind fun _ => .get (fun _ _ _ _ _ => rfl) fun _ _ => .ite (.pure ()) <|
    Built.bind ((line_built (h (by decide)) _).bind fun _ => .get (fun _ _ _ _ _ => rfl) fun _ _ => .ite
        ((part_built (h (by decide)) _ _).bind fun _ => appCommand_built (h (by decide)) (h (by decide)) _ _)
        ((line_built (h (by decide)) _).bind fun _ => isAccepted_built (command_built h _ _ _)))
      fun _ => testLine_built h _ rfl _

theorem wrnLoop_built (n : Nat) : ∀ k, Built I (labelsOf .wrn) W (wrnLoop k n) := by
  have ends : ∀ (l : Nat) (c : Cause), Built I (labelsOf .wrn) W (do line l; setRes (.failed c); part l 2 : Blk Unit) :=
    fun l c => (line_built (by decide) l).bind fun _ => (setRes_built (by decide) _).bind fun _ => part_built (by decide) l 2
  induction n with
  | zero => exact fun _ => line_built (by decide) 12
  | succ n ih =>
    exact fun k => (line_built (by decide) 12).bind fun _ => (setSector_built (by decide) k).bind fun _ =>
      (line_built (by decide) 13).bind fun _ => (sendSector_built (by decide) (by decide) (by decide) _ k).bind fun _ =>
      .ite ((line_built (by decide) 15).bind fun _ => (waitWriteBusy_built (by decide)).bind fun _ =>
        .ite (ih (k + 1)) (ends 16 _)) (ends 14 _)

theorem closeWait_built (h : lineLabels ⊆ L) (hc : .counters ∈ L) : Built I L W closeWait :=
  (line_built (h (by decide)) 19).bind fun _ => (waitIdle_built (h (by decide))).bind fun _ => .ite (.pure ())
    ((line_built (h (by decide)) 20).bind fun _ => .get (fun _ _ _ _ _ => rfl) fun _ _ =>
      .ite ((part_built (h (by decide)) 20 2).bind fun _ => setRes_built hc _) (.pure ()))

theorem bodyWrn_program : Program I (labelsOf .wrn) W bodyWrn := by
  have h : lineLabels ⊆ labelsOf .wrn := by decide
  exact .line (by decide) fun _ => firstAddress_built.bind fun _ => (part_built (by decide) _ _).bind fun _ =>
    (Built.read (g := State.lArg1) fun _ _ _ _ _ => rfl).bind fun _ => (line_built (by decide) _).bind fun _ =>
    (select_built (by decide)).bind fun _ => (readyLine_built h _).bind fun _ => (announceUnlessMmc_built h _).bind fun _ =>
    (line_built (by decide) _).bind fun _ => (command_built h _ _ _).bind fun _ => (testLine_built h _ rfl _).bind fun _ =>
    (line_built (by decide) _).bind fun _ => (writeGap_built (by decide)).bind fun _ => (line_built (by decide) _).bind fun _ =>
    (setRes_built (by decide) _).bind fun _ => (wrnLoop_built _ _).bind fun _ => (line_built (by decide) _).bind fun _ =>
    (xchg_built (by decide) _).bind fun _ => (line_built (by decide) _).bind fun _ => (fillers_built (by decide) _).bind fun _ =>
    (closeWait_built h (by decide)).bind fun _ => (line_built (by decide) _).bind fun _ => returnRes_built (by decide)

theorem bodyErase_program : Program I (labelsOf .erase) W bodyErase := by
  have h : lineLabels ⊆ labelsOf .erase := by decide
  exact .line (by decide) fun _ => firstAddress_built.bind fun _ => (part_built (by decide) _ _).bind fun _ =>
    lastAddress_built.bind fun _ => (line_built (by decide) _).bind fun _ => (select_built (by decide)).bind fun _ =>
    (readyLine_built h _).bind fun _ => (commandLine_built h _ _ _).bind fun _ => (commandLine_built h _ _ _).bind fun _ =>
    (commandLine_built h _ _ _).bind fun _ =>
    (require_built (by decide) _ rfl (waitEraseBusy_built (by decide))).bind fun _ => line_built (by decide) _

/-! ### Register reads -/

/-- The kinds of change of INFO before it sets CAPKB. -/
def infoReadLabels : List Label := lineLabels ++ [.select, .memWrite, .csd]

theorem receiveCsd_built (h : infoReadLabels ⊆ L) (dest n : Nat) :
    ∀ i, (∀ j, i ≤ j → j < i + n → W (dest + j)) → Built I L W (receiveCsd dest i n) := by
  induction n with
  | zero => exact fun _ _ => line_built (h (by decide)) 7
  | succ n ih =>
    exact fun i hw => (line_built (h (by decide)) 7).bind fun _ => (setByteIdx_built i).bind fun _ =>
      (line_built (h (by decide)) 8).bind fun _ => (xchg_built (h (by decide)) _).bind fun _ =>
      (line_built (h (by decide)) 9).bind fun _ =>
      (Built.memWrite (h (by decide)) _ (hw i (by omega) (by omega)) _).bind fun _ => (line_built (h (by decide)) 10).bind fun _ =>
      (Built.change .csd (h (by decide)) (by decide) (fun _ => ⟨_, rfl⟩) fun _ _ _ _ _ => rfl).bind fun _ =>
      ih (i + 1) fun j h1 h2 => hw j (by omega) (by omega)

include hb in
theorem csdReceive_built (h : infoReadLabels ⊆ L) (hw : ∀ j, j < 16 → W (b + j)) : Built I L W csdReceive := by
  have hl : lineLabels ⊆ L := sub (by decide) h
  exact (line_built (h (by decide)) 5).bind fun _ => (waitToken_built (h (by decide))).bind fun _ =>
    (testLine_built hl 6 rfl _).bind fun _ => .read_bind (g := fun s => bufOff s 0) (fun _ _ _ _ _ => rfl) fun s hs =>
    (receiveCsd_built h _ 16 0 fun j _ hj => by rw [bufOff, hb s hs]; exact hw j (by omega)).bind fun _ =>
    (line_built (h (by decide)) 11).bind fun _ => (fillers_built (h (by decide)) 1).bind fun _ =>
    (part_built (h (by decide)) 11 2).bind fun _ => fillers_built (h (by decide)) 1

include hb in
theorem scrUnlessMmc_built (h : infoReadLabels ⊆ L) (hw : ∀ s, I s → s.family ≠ .mmc → ∀ j, 32 ≤ j → j < 40 → W (b + j)) :
    Built I L W scrUnlessMmc := by
  have hl : lineLabels ⊆ L := sub (by decide) h
  refine (line_built (h (by decide)) 17).bind fun _ => .get (fun _ _ _ _ _ => rfl) fun s hs => ?_
  split
  · exact .pure ()
  · rename_i hf
    exact (readyLine_built hl 18).bind fun _ => (appLine_built hl 19 _ _).bind fun _ =>
      require_built (h (by decide)) 20 rfl (receiveRegister_built (h (by decide)) (h (by decide)) hb 8 32 (hw s hs hf))

/-- INFO after its first statement, up to the last byte it receives. -/
def infoReads : Blk Unit := do
  select
  require 3 .readyTimeout waitIdle
  require 4 .cmdRejected (isAccepted (sendCommand 9#8 0x00000000#32 0x00#8))
  csdReceive
  require 13 .readyTimeout waitIdle
  require 14 .cmdRejected (isAccepted (sendCommand 10#8 0x00000000#32 0x00#8))
  require 15 .tokenFail (receiveRegister 16 16)
  scrUnlessMmc

/-- INFO from `R.CAPKB <- …` on. -/
def infoSets : Blk Unit := do
  line 22
  setCapkb
  line 23
  setBlksize
  line 24

theorem bodyInfo_eq : bodyInfo = line 1 >>= fun _ => infoReads >>= fun _ => infoSets := by
  simp only [bodyInfo, infoReads, infoSets, bind_assoc]

include hb in
theorem infoReads_built (h : infoReadLabels ⊆ L) (hw : ∀ j, j < 32 → W (b + j))
    (hw' : ∀ s, I s → s.family ≠ .mmc → ∀ j, 32 ≤ j → j < 40 → W (b + j)) : Built I L W infoReads := by
  have hl : lineLabels ⊆ L := sub (by decide) h
  exact (select_built (h (by decide))).bind fun _ => (readyLine_built hl 3).bind fun _ => (commandLine_built hl 4 _ _).bind fun _ =>
    (csdReceive_built hb h fun j hj => hw j (by omega)).bind fun _ => (readyLine_built hl 13).bind fun _ =>
    (commandLine_built hl 14 _ _).bind fun _ =>
    (require_built (h (by decide)) 15 rfl (receiveRegister_built (h (by decide)) (h (by decide)) hb 16 16
      fun j _ hj => hw j (by omega))).bind fun _ => scrUnlessMmc_built hb h hw'

include hb in
theorem bodyInfo_program (hw : ∀ j, j < 32 → W (b + j))
    (hw' : ∀ s, I s → s.family ≠ .mmc → ∀ j, 32 ≤ j → j < 40 → W (b + j)) : Program I (labelsOf .info) W bodyInfo :=
  bodyInfo_eq ▸ .line (by decide) fun _ => (infoReads_built hb (by decide) hw hw').bind fun _ => (line_built (by decide) 22).bind fun _ =>
    (Built.change .capkb (by decide) (by decide) (fun _ => rfl) fun _ _ _ _ _ => rfl).bind fun _ =>
    (line_built (by decide) 23).bind fun _ =>
    (Built.change .blksize (by decide) (by decide) (fun _ => rfl) fun _ _ _ _ _ => rfl).bind fun _ => line_built (by decide) 24

include hb in
theorem bodyStat_program (hw : ∀ j, j < 64 → W (b + j)) : Program I (labelsOf .stat) W bodyStat := by
  have h : lineLabels ⊆ labelsOf .stat := by decide
  exact .line (by decide) fun _ => (select_built (by decide)).bind fun _ => (readyLine_built h _).bind fun _ =>
    (appLine_built h _ _ _).bind fun _ => (line_built (by decide) _).bind fun _ => (fillers_built (by decide) _).bind fun _ =>
    (require_built (by decide) _ rfl (receiveRegister_built (by decide) (by decide) hb 64 0 fun j _ hj => hw j (by omega))).bind
      fun _ => line_built (by decide) _

end Transfers

/-! ### The instructions -/

/-- Every request is a start of its body: of a reserved code, which its pre-check ends, or of a program. -/
theorem exec_program {i : Instr} {op : BitVec 4} (h : i.opCode? = some op) : ∃ body : Blk Unit,
    (∀ s, exec i s = .next (start op body s)) ∧
    ((∀ s, preCheck op s ≠ none) ∨ ∀ s₀, Program (Underway i s₀) (labelsOf i) (StoredBy i s₀) body) := by
  have reserved : ∀ {op : BitVec 4}, op.toNat = 0 ∨ 0xA < op.toNat → ∀ s, preCheck op s ≠ none := fun ho s => by
    simp [preCheck_reserved ho s]
  have hb : ∀ {i s₀ s}, Underway i s₀ s → s.lBuf.toNat = s₀.bufbase.toNat := fun u => by rw [u.lBuf]
  cases i <;> simp only [Instr.opCode?, reduceCtorEq, Option.some.injEq] at h <;> subst h <;> refine ⟨_, fun _ => rfl, ?_⟩
  case detect => exact .inr fun _ => bodyDetect_program
  case deinit => exact .inr fun _ => bodyDeinit_program
  case init => exact .inr fun _ => bodyInit_program
  case rd1 => exact .inr fun _ => bodyRd1_program (fun _ => hb) fun j hj => ⟨j, hj, rfl⟩
  case rdn => exact .inr fun s₀ => bodyRdn_program (fun _ => hb) (n := s₀.arg1) (fun _ u => u.lArg1) fun j hj => ⟨j, hj, rfl⟩
  case wr1 => exact .inr fun _ => bodyWr1_program
  case wrn => exact .inr fun _ => bodyWrn_program
  case erase => exact .inr fun _ => bodyErase_program
  case info =>
    refine .inr fun s₀ => bodyInfo_program (fun _ => hb) (fun j hj => ⟨j, ?_, rfl⟩) fun s u hf j _ hj => ⟨j, ?_, rfl⟩
    · simp only [storeLength]; split <;> omega
    · rw [u.family (by simp)] at hf; simpa [storeLength, hf] using hj
  case stat => exact .inr fun _ => bodyStat_program (fun _ => hb) fun j hj => ⟨j, hj, rfl⟩
  all_goals exact .inl (reserved (by decide))

/-- Every wire row is a piece run alone. -/
theorem exec_wireBuilt {i : Instr} (h : i.opCode? = none) : ∃ (α : Type) (m : Blk α),
    (∀ s, exec i s = .next (alone m s)) ∧ Built I (labelsOf i) W m := by
  cases i <;> simp only [Instr.opCode?, reduceCtorEq] at h
  case r1 st => exact ⟨_, receiveR1 (0#1 ++ st), fun _ => rfl, (receive_built (by simp [labelsOf]) _).bind fun _ =>
    .change .lastR1 (by simp [labelsOf]) (by decide) (fun _ => ⟨_, rfl⟩) fun _ _ _ _ _ => rfl⟩
  case tokenStartBlock | tokenMultiWrite | tokenStopTran => exact ⟨_, _, fun _ => rfl, xchg_built (by decide) _⟩
  case drespAccepted | drespCrcRejected | drespWriteError =>
    exact ⟨_, receiveDresp _, fun _ => rfl, (receive_built (by simp [labelsOf]) _).bind fun _ => takeDresp_built (by simp [labelsOf]) _⟩
  all_goals exact ⟨_, _, fun _ => rfl, sendCommand_built (by simp [labelsOf]) (by simp [labelsOf]) _ _ _⟩

end Sys2Proof.Machine
end

section
/-! SUPPORT. What holds of every state a built piece leaves: a claim that what arrives, every change and every buffer access of a piece
keeps, the piece keeps, whether it ends, raises, is stuck or is abandoned; and so a whole run, and a whole request. -/
namespace Sys2Proof.Machine

/-! ### How a piece ends -/

/-- A piece ends in a state of `G`, or it raises or is stuck in a state of `F`, or a reset leaves it in a state of `A` (R8, R55, R251). -/
inductive Leaves (L : List Label) (G F A : State → Prop) {α : Type} : EStateM.Result Stop State α → Prop where
  | ok {a : α} {t : State} (h : G t) : Leaves L G F A (.ok a t)
  | raised {c : Cause} {t : State} (hc : c.outcome = .fail ∨ .counters ∈ L) (h : F t) : Leaves L G F A (.error (.raised c) t)
  | stuck {t : State} (hm : .memRead ∈ L ∨ .memWrite ∈ L) (h : F t) : Leaves L G F A (.error .stuck t)
  | abandoned {t : State} (h : A t) : Leaves L G F A (.error .abandoned t)

variable {α β : Type} {I : State → Prop} {L : List Label} {W : Nat → Prop} {F G H A : State → Prop}

theorem Leaves.bind {m : Blk α} {f : α → Blk β} {s : State} (hm : Leaves L G F A (m s))
    (hf : ∀ a t, G t → Leaves L H F A (f a t)) : Leaves L H F A ((m >>= f) s) := by
  cases hms : m s with
  | ok a t =>
    rw [hms] at hm
    cases hm with
    | ok h => rw [blk_bind_ok hms]; exact hf a t h
  | error e t =>
    rw [hms] at hm
    rw [blk_bind_error hms]
    cases hm with
    | raised hc h => exact .raised hc h
    | stuck hm h => exact .stuck hm h
    | abandoned h => exact .abandoned h

theorem Leaves.mono {r : EStateM.Result Stop State α} (h : Leaves L G F A r) {K : List Label} {G' F' A' : State → Prop}
    (hL : L ⊆ K) (hG : ∀ t, G t → G' t) (hF : ∀ t, F t → F' t) (hA : ∀ t, A t → A' t) : Leaves K G' F' A' r := by
  cases h with
  | ok h => exact .ok (hG _ h)
  | raised hc h => exact .raised (hc.imp_right (@hL _)) (hF _ h)
  | stuck hm h => exact .stuck (hm.imp (@hL _) (@hL _)) (hF _ h)
  | abandoned h => exact .abandoned (hA _ h)

/-! ### What arrives -/

/-- What arrives from `s` on leaves a state of `G` by moves of the outside, or abandons the operation in a state of `A` (R251). -/
def Hears (G A : State → Prop) (s : State) : Prop :=
  (∃ t, sync s = .ok () t ∧ Path [.outside] s t ∧ G t) ∨ ∃ t, sync s = .error .abandoned t ∧ A t

theorem serve_hears (l : List Arrival) : ∀ s, (∃ t, serve l s = .ok () t ∧ Path [.outside] s t) ∨
    ∃ u i, serve l s = .error .abandoned { resetBlock u with inbox := i } ∧ Path [.outside] s u := by
  have out : ∀ {s t u : State}, Move .outside s t → Path [.outside] t u → Path [.outside] s u :=
    fun h p => .step .outside (by simp) h p
  have inbox : ∀ (s : State) (i : List Arrival), Path [.outside] s { s with inbox := i } :=
    fun s i => out (move_inbox s i) (.refl _)
  induction l with
  | nil => exact fun s => .inl ⟨_, rfl, inbox s []⟩
  | cons a rest ih =>
    intro s
    obtain ⟨wait, input⟩ := a
    have next : ∀ {u}, Path [.outside] s u → serve (⟨0, input⟩ :: rest) s = serve rest u →
        (∃ t, serve (⟨0, input⟩ :: rest) s = .ok () t ∧ Path [.outside] s t) ∨
        ∃ u i, serve (⟨0, input⟩ :: rest) s = .error .abandoned { resetBlock u with inbox := i } ∧ Path [.outside] s u := by
      intro u p e
      obtain ⟨t, ht, q⟩ | ⟨v, i, hv, q⟩ := ih u
      · exact .inl ⟨t, e.trans ht, p.trans q⟩
      · exact .inr ⟨v, i, e.trans hv, p.trans q⟩
    cases wait with
    | succ n => exact .inl ⟨_, rfl, inbox s _⟩
    | zero =>
      cases input with
      | reset => exact .inr ⟨s, rest, rfl, .refl s⟩
      | bufRead a => exact next (out (move_requesterRead s a) (.refl _)) rfl
      | bufWrite a v => exact next (out (move_requesterWrite s a v) (.refl _)) rfl
      | access acc =>
        by_cases hi : acc.inInterface = false
        · exact .inl ⟨{ s with inbox := ⟨0, .access acc⟩ :: rest }, by simp [serve, hi], inbox s _⟩
        · cases hr : acc.request? with
          | none => exact next (out (move_accessReg s acc) (.refl _)) (by simp [serve, hi, hr])
          | some w =>
            by_cases hb : s.busy = true
            · exact next (.refl s) (by simp [serve, hi, hr, hb])
            · exact .inl ⟨{ s with inbox := ⟨0, .access acc⟩ :: rest }, by simp [serve, hi, hr, hb], inbox s _⟩

/-- What moves of the outside keep, what arrives keeps; a reset leaves the reset values. -/
theorem hears_of_outside (h : ∀ s t, Move .outside s t → F s → F t) (hA : ∀ u i, F u → A { resetBlock u with inbox := i })
    {s : State} (hs : F s) : Hears F A s := by
  have keep : ∀ {u}, Path [.outside] s u → F u := fun p =>
    p.keeps (fun l hl s t => by rw [List.mem_singleton.1 hl]; exact h s t) hs
  obtain ⟨t, ht, p⟩ | ⟨u, i, hu, p⟩ := serve_hears s.inbox s
  · exact .inl ⟨t, ht, p, keep p⟩
  · exact .inr ⟨_, hu, hA u i (keep p)⟩

/-! ### What a piece keeps -/

/-- What arrives, every change of a kind in `L` and every buffer access at an address of `W` keep `F`. -/
structure Holds (L : List Label) (W : Nat → Prop) (F A : State → Prop) : Prop where
  hears : ∀ s, F s → Hears F A s
  moves : ∀ l ∈ L, l ∈ quietLabels ++ busLabels → ∀ s t, Move l s t → F s → F t
  count : ∀ s a b, F s → F { s with tries := a, byteIdx := b }
  read : .memRead ∈ L → ∀ a s t, Reads a s t → F s → F t
  write : .memWrite ∈ L → ∀ a, W a → ∀ s t, Writes a s t → F s → F t

theorem Holds.sync (k : Holds L W F A) {s : State} (hs : F s) : Leaves L F F A (sync s) := by
  obtain ⟨t, ht, -, h⟩ | ⟨t, ht, h⟩ := k.hears s hs
  · rw [ht]; exact .ok h
  · rw [ht]; exact .abandoned h

/-- A built piece keeps what its parts keep. -/
theorem Built.leaves {m : Blk α} (h : Built I L W m) (k : Holds L W F A) (hI : ∀ s, F s → I s) :
    ∀ s, F s → Leaves L F F A (m s) := by
  induction h with
  | pure a => exact fun s hs => .ok hs
  | bind _ _ ihm ihf => exact fun s hs => (ihm s hs).bind fun a t ht => ihf a t ht
  | get _ _ ih => exact fun s hs => ih s (hI s hs) s hs
  | sync => exact fun s hs => k.sync hs
  | own l hl hq h => exact fun s hs => .ok (k.moves l hl (List.mem_append_left _ hq) s _ (h.moves s) hs)
  | count h _ =>
    intro s hs
    obtain ⟨a, b, e⟩ := h s
    exact .ok (by rw [e]; exact k.count s a b hs)
  | event l hl hb h _ =>
    exact fun s hs => (k.sync hs).bind fun _ t ht => .ok (k.moves l hl (List.mem_append_right _ hb) t _ (h.moves t) ht)
  | raise c hc => exact fun s hs => .raised hc hs
  | memRead hm a =>
    refine fun s hs => memRead_eq a ▸ (k.sync hs).bind fun _ t ht => ?_
    obtain e | ⟨v, u, e, hu⟩ := readNow_cases a t
    · rw [e]; exact .stuck (.inl hm) ht
    · rw [e]; exact .ok (k.read hm a t u hu ht)
  | memWrite hm a ha v =>
    refine fun s hs => memWrite_eq a v ▸ (k.sync hs).bind fun _ t ht => ?_
    obtain e | ⟨u, e, hu⟩ := writeNow_cases a v t
    · rw [e]; exact .stuck (.inr hm) ht
    · rw [e]; exact .ok (k.write hm a ha t u hu ht)

/-! ### The epilogue -/

/-- A piece that only a reset stops. -/
def Passes (G A : State → Prop) (m : Blk α) (s : State) : Prop :=
  (∃ a t, m s = .ok a t ∧ G t) ∨ ∃ t, m s = .error .abandoned t ∧ A t

theorem Passes.bind {m : Blk α} {f : α → Blk β} {s : State} (hm : Passes G A m s) (hf : ∀ a t, G t → Passes H A (f a) t) :
    Passes H A (m >>= f) s := by
  obtain ⟨a, t, e, h⟩ | ⟨t, e, h⟩ := hm
  · obtain ⟨b, u, e', h'⟩ | ⟨u, e', h'⟩ := hf a t h
    · exact .inl ⟨b, u, (blk_bind_ok e f).trans e', h'⟩
    · exact .inr ⟨u, (blk_bind_ok e f).trans e', h'⟩
  · exact .inr ⟨t, blk_bind_error e f, h⟩

/-- Serving what arrives leaves chip-select as it is. -/
theorem sync_passes (k : Holds L W F A) {s : State} (hs : F s) : Passes (fun t => F t ∧ t.cs = s.cs) A sync s := by
  obtain ⟨t, e, p, h⟩ | ⟨t, e, h⟩ := k.hears s hs
  · exact .inl ⟨(), t, e, h, (p.silent (by decide)).cs⟩
  · exact .inr ⟨t, e, h⟩

theorem at_passes (k : Holds L W F A) (hl : .seq ∈ L) (p : Seq) {s : State} (hs : F s) :
    Passes (fun t => F t ∧ t.cs = s.cs) A (at_ p) s :=
  sync_passes k (s := { s with seq := p }) (k.moves .seq hl (by decide) s _ ⟨p, rfl⟩ hs)

theorem xchg_passes (k : Holds L W F A) (hx : .exchange ∈ L) (o : Byte) {s : State} (hs : F s) :
    Passes (fun t => F t ∧ t.cs = s.cs) A (xchg o) s := (sync_passes k hs).bind fun _ t ht =>
  .inl ⟨_, _, rfl, k.moves .exchange hx (by decide) t _ ⟨_, _, t.card.tail, rfl⟩ ht.1, ht.2⟩

theorem release_passes (k : Holds epilogueLabels W F A) {s : State} (hs : F s) :
    Passes (fun t => F t ∧ t.cs = false) A release s := by
  have deselected : Passes (fun t => F t ∧ t.cs = false) A deselect s := (sync_passes k hs).bind fun _ t ht =>
    .inl ⟨_, _, rfl, k.moves .deselect (by decide) (by decide) t _ rfl ht.1, rfl⟩
  exact release_eq ▸ deselected.bind fun _ t ht => (xchg_passes k (by decide) filler ht.1).bind fun _ u hu =>
    .inl ⟨_, u, rfl, hu.1, hu.2.trans ht.2⟩

/-- A piece that reads the state first. -/
theorem Passes.get {f : State → Blk β} {s : State} (h : Passes G A (f s) s) : Passes G A ((MonadState.get : Blk State) >>= f) s := h

/-- The epilogue of Run keeps `F` and leaves the card unselected, and only a reset stops it (R9). -/
def Finishes (F A : State → Prop) : Prop := ∀ s, F s → Passes (fun t => F t ∧ t.cs = false) A epilogue s

theorem lastStatement_passes (k : Holds L W F A) (hl : .seq ∈ L) {s : State} (hs : F s) (hc : s.cs = false) :
    Passes (fun t => F t ∧ t.cs = false) A (at_ (.epilogue 3 1)) s := by
  have := at_passes k hl (.epilogue 3 1) hs
  rwa [hc] at this

theorem Holds.finishes (k : Holds epilogueLabels W F A) : Finishes F A := by
  refine fun s hs => (at_passes k (by decide) _ hs).bind fun _ t ht => .get ?_
  simp only []
  split
  · exact (at_passes k (by decide) _ ht.1).bind fun _ u hu => (release_passes k hu.1).bind fun _ v hv =>
      lastStatement_passes k (by decide) hv.1 hv.2
  · rename_i hc; exact lastStatement_passes k (by decide) ht.1 (by simpa using hc)

/-- Where the card is not selected the epilogue exchanges nothing. -/
theorem Holds.finishes_unselected (k : Holds L W F A) (hl : .seq ∈ L) (hc : ∀ s, F s → s.cs = false) : Finishes F A := by
  refine fun s hs => (at_passes k hl _ hs).bind fun _ t ht => .get ?_
  simp only [hc t ht.1, Bool.false_eq_true, if_false]
  exact lastStatement_passes k hl ht.1 (hc t ht.1)

/-! ### Run -/

/-- How a run ends: completed with the bus released, OK from a state of `G` or with the outcome of the cause it raised from one of
`F`; stuck in a state of `F`; or abandoned in one of `A` (R9, R224, R251, D38). -/
inductive RunEnds (L : List Label) (G F A : State → Prop) : State → Prop where
  | ok {u : State} (h : G u) (hc : u.cs = false) : RunEnds L G F A (complete .ok u)
  | failed {c : Cause} {u : State} (hc : c.outcome = .fail ∨ .counters ∈ L) (h : F u) (hs : u.cs = false) :
      RunEnds L G F A (complete c.outcome u)
  | stuck {u : State} (hm : .memRead ∈ L ∨ .memWrite ∈ L) (h : F u) : RunEnds L G F A u
  | abandoned {u : State} (h : A u) : RunEnds L G F A u

theorem finishRun_passes (k : Finishes F A) {s : State} (hs : F s) (o : Result) :
    (∃ u, finishRun o s = complete o u ∧ F u ∧ u.cs = false) ∨ A (finishRun o s) := by
  obtain ⟨_, u, e, hu⟩ | ⟨u, e, hu⟩ := k s hs
  · exact .inl ⟨u, by rw [finishRun, e], hu⟩
  · exact .inr (by rw [finishRun, e]; exact hu)

theorem run_ends {body : Blk Unit} {s : State} (h : Leaves L G F A (body s)) (kG : Finishes G A) (kF : Finishes F A) : RunEnds L G F A (run body s) := by
  cases hb : body s with
  | ok a t =>
    rw [hb] at h
    cases h with
    | ok h =>
      rw [run_ok hb]
      obtain ⟨u, e, hu, hc⟩ | hA := finishRun_passes kG h .ok
      · rw [e]; exact .ok hu hc
      · exact .abandoned hA
  | error e t =>
    rw [hb] at h
    cases h with
    | @raised c _ hc h =>
      rw [run_raised hb]
      obtain ⟨u, e, hu, hs⟩ | hA := finishRun_passes kF h c.outcome
      · rw [e]; exact .failed hc hu hs
      · exact .abandoned hA
    | stuck hm h => rw [run_stuck hb]; exact .stuck hm h
    | abandoned h => rw [run_abandoned hb]; exact .abandoned h

/-! ### Requests -/

/-- The state the body of a started operation runs on (R33, R222). -/
def started (op : BitVec 4) (s : State) : State := { latch op s with seq := firstStatement op }

/-- How a request ends: ignored (R227), ended by a pre-check (R223), or run. -/
inductive Ended (op : BitVec 4) (L : List Label) (G F A : State → Prop) (s : State) : State → Prop where
  | ignored (busy : s.busy = true) : Ended op L G F A s s
  | refused (c : Cause) (idle : s.busy = false) (check : preCheck op s = some c) :
      Ended op L G F A s (complete c.outcome (latch op s))
  | ran {t : State} (idle : s.busy = false) (check : preCheck op s = none) (h : RunEnds L G F A t) : Ended op L G F A s t

theorem start_ended {op : BitVec 4} {body : Blk Unit} {s : State}
    (h : s.busy = false → preCheck op s = none → RunEnds L G F A (run body (started op s))) :
    Ended op L G F A s (start op body s) := by
  cases hb : s.busy with
  | true => rw [start_busy hb]; exact .ignored hb
  | false =>
    cases hc : preCheck op s with
    | some c => rw [start_refused hb body hc]; exact .refused c hb hc
    | none => rw [start_runs hb body hc]; exact .ran hb hc (h hb hc)

/-- From `s` to `t` moves of the kinds in `L` were made: each register that no kind in `L` writes keeps its value. -/
structure Unchanged (L : List Label) (s t : State) : Prop extends SameRun s t where
  done : t.done = s.done
  cs : .select ∉ L → .deselect ∉ L → t.cs = s.cs
  seq : .seq ∉ L → t.seq = s.seq
  regs : .outside ∉ L → t.arg0 = s.arg0 ∧ t.arg1 = s.arg1 ∧ t.bufbase = s.bufbase ∧ t.rdata = s.rdata
  family : .family ∉ L → t.family = s.family
  initOk : .initOk ∉ L → t.initOk = s.initOk
  ext : .ext ∉ L → t.ext = s.ext ∧ t.ext32 = s.ext32
  present : .pin ∉ L → t.present = s.present ∧ t.pins = s.pins ∧ t.pinReads = s.pinReads
  lastR1 : .lastR1 ∉ L → t.lastR1 = s.lastR1
  lastDresp : .dresp ∉ L → t.lastDresp = s.lastDresp
  csdShadow : .csd ∉ L → t.csdShadow = s.csdShadow
  capkb : .capkb ∉ L → t.capkb = s.capkb
  blksize : .blksize ∉ L → t.blksize = s.blksize
  counters : .counters ∉ L → t.res = s.res ∧ t.sector = s.sector
  bus : .exchange ∉ L → t.card = s.card ∧ t.xchgs = s.xchgs
  mem : .outside ∉ L → .memWrite ∉ L → t.mem = s.mem

theorem Unchanged.refl (L : List Label) (s : State) : Unchanged L s s := by
  constructor
  · exact .refl s
  all_goals simp

theorem Unchanged.trans {s t u : State} (h : Unchanged L s t) (k : Unchanged L t u) : Unchanged L s u where
  toSameRun := h.toSameRun.trans k.toSameRun
  done := k.done.trans h.done
  cs h1 h2 := (k.cs h1 h2).trans (h.cs h1 h2)
  seq hl := (k.seq hl).trans (h.seq hl)
  regs hl := by simp only [k.regs hl, h.regs hl, and_self]
  family hl := (k.family hl).trans (h.family hl)
  initOk hl := (k.initOk hl).trans (h.initOk hl)
  ext hl := by simp only [k.ext hl, h.ext hl, and_self]
  present hl := by simp only [k.present hl, h.present hl, and_self]
  lastR1 hl := (k.lastR1 hl).trans (h.lastR1 hl)
  lastDresp hl := (k.lastDresp hl).trans (h.lastDresp hl)
  csdShadow hl := (k.csdShadow hl).trans (h.csdShadow hl)
  capkb hl := (k.capkb hl).trans (h.capkb hl)
  blksize hl := (k.blksize hl).trans (h.blksize hl)
  counters hl := by simp only [k.counters hl, h.counters hl, and_self]
  bus hl := by simp only [k.bus hl, h.bus hl, and_self]
  mem h1 h2 := (k.mem h1 h2).trans (h.mem h1 h2)

theorem Unchanged.mono {K : List Label} {s t : State} (h : Unchanged L s t) (hL : L ⊆ K) : Unchanged K s t := by
  have out : ∀ {l : Label}, l ∉ K → l ∉ L := fun hl h => hl (hL h)
  exact ⟨h.toSameRun, h.done, fun h1 h2 => h.cs (out h1) (out h2), fun hl => h.seq (out hl), fun hl => h.regs (out hl),
    fun hl => h.family (out hl), fun hl => h.initOk (out hl), fun hl => h.ext (out hl), fun hl => h.present (out hl),
    fun hl => h.lastR1 (out hl), fun hl => h.lastDresp (out hl), fun hl => h.csdShadow (out hl), fun hl => h.capkb (out hl),
    fun hl => h.blksize (out hl), fun hl => h.counters (out hl), fun hl => h.bus (out hl), fun h1 h2 => h.mem (out h1) (out h2)⟩

/-- Every move but a reset changes only what its kind writes. -/
theorem Move.unchanged {l : Label} (hr : l ≠ .reset) {s t : State} (h : Move l s t) : Unchanged [l] s t := by
  constructor
  case toSameRun => exact (h.frame hr).1
  all_goals
    cases l
    case reset => exact absurd rfl hr
    case select | deselect | capkb | blksize => obtain rfl := h; simp
    case seq | lastR1 | dresp | csd | family | initOk => obtain ⟨_, rfl⟩ := h; simp
    case ext => obtain ⟨_, _, rfl⟩ := h; simp
    case exchange | pin => obtain ⟨_, _, _, rfl⟩ := h; simp
    case counters | memRead => obtain ⟨_, _, _, _, rfl⟩ := h; simp
    case memWrite => obtain ⟨_, _, _, _, _, _, _, rfl, _⟩ := h; simp
    case outside => obtain ⟨_, _, _, _, _, _, _, _, _, _, rfl, _⟩ := h; simp

theorem Path.unchanged (hr : .reset ∉ L) {s t : State} (p : Path L s t) : Unchanged L s t := by
  induction p with
  | refl s => exact .refl L s
  | step l hl m _ ih => exact ((m.unchanged fun e => hr (e ▸ hl)).mono (by simpa using hl)).trans ih

theorem Move.family {l : Label} (hf : l ≠ .family) (hr : l ≠ .reset) {s t : State} (h : Move l s t) : t.family = s.family :=
  (h.unchanged hr).family (by simpa using hf.symm)

/-- The latches an operation's addresses come from outlive every move but a reset, and so does FAMILY, INIT apart (R31, R35). -/
theorem Underway.move {i : Instr} {s₀ s t : State} {l : Label} (u : Underway i s₀ s) (hf : i ≠ .init → l ≠ .family)
    (hr : l ≠ .reset) (h : Move l s t) : Underway i s₀ t := by
  obtain ⟨same, -⟩ := h.frame hr
  exact ⟨same.lBuf.trans u.lBuf, same.lArg1.trans u.lArg1, fun hi => (h.family (hf hi) hr).trans (u.family hi)⟩

/-- What the parts of an operation keep, they keep beside what stands. -/
theorem Holds.underway {i : Instr} {s₀ : State} (k : Holds L W F A) (hL : i ≠ .init → .family ∉ L) :
    Holds L W (fun t => Underway i s₀ t ∧ F t) A where
  hears s hs := by
    obtain ⟨t, ht, p, h⟩ | ⟨t, ht, h⟩ := k.hears s hs.2
    · refine .inl ⟨t, ht, p, ?_, h⟩
      exact p.keeps (fun l hl s t m u => by
        obtain rfl := List.mem_singleton.1 hl; exact u.move (by simp) (by simp) m) hs.1
    · exact .inr ⟨t, ht, h⟩
  moves l hl hq s t m hs :=
    ⟨hs.1.move (fun hi e => hL hi (e ▸ hl)) (fun e => absurd hq (by rw [e]; decide)) m, k.moves l hl hq s t m hs.2⟩
  count s a b hs := ⟨⟨hs.1.lBuf, hs.1.lArg1, hs.1.family⟩, k.count s a b hs.2⟩
  read hm a s t r hs := ⟨hs.1.move (by simp) (by simp) r.move, k.read hm a s t r hs.2⟩
  write hm a ha s t w hs := ⟨hs.1.move (by simp) (by simp) w.move, k.write hm a ha s t w hs.2⟩

theorem labelsOf_family {i : Instr} (hi : i ≠ .init) : Label.family ∉ labelsOf i := by
  cases i
  case init => exact absurd rfl hi
  all_goals simp [labelsOf, lineLabels]

/-- A request keeps what the parts of its operation and of the epilogue keep. -/
theorem exec_ended {i : Instr} {op : BitVec 4} (h : i.opCode? = some op) {s : State}
    (k : Holds (labelsOf i) (StoredBy i s) F A) (ke : Finishes F A)
    (hs : s.busy = false → preCheck op s = none → F (started op s)) :
    ∃ t, exec i s = .next t ∧ Ended op (labelsOf i) F F A s t := by
  obtain ⟨body, he, hp⟩ := exec_program h
  refine ⟨_, he s, start_ended fun hb hc => ?_⟩
  obtain hn | hp := hp
  · exact absurd hc (hn s)
  · have under : Underway i s (started op s) := ⟨rfl, rfl, fun _ => rfl⟩
    have h := (hp s).built.leaves (k.underway labelsOf_family) (fun _ hu => hu.1) _ ⟨under, hs hb hc⟩
    exact run_ends (h.mono (List.Subset.refl _) (fun _ => And.right) (fun _ => And.right) fun _ => id) ke ke

/-- A wire row likewise. -/
theorem exec_wireLeaves {i : Instr} (h : i.opCode? = none) {s : State} (k : Holds (labelsOf i) (fun _ => True) F A) (hs : F s) :
    ∃ t, exec i s = .next t ∧ (F t ∨ A t) := by
  obtain ⟨α, m, he, hm⟩ := exec_wireBuilt (I := fun _ => True) (W := fun _ => True) h
  refine ⟨_, he s, ?_⟩
  have := hm.leaves k (fun _ _ => trivial) s hs
  unfold alone
  cases hms : m s with
  | ok a t => rw [hms] at this; cases this with | ok h => exact .inl h
  | error e t =>
    rw [hms] at this
    cases this with
    | raised _ h => exact .inl h
    | stuck _ h => exact .inl h
    | abandoned h => exact .inr h

end Sys2Proof.Machine
end

section
/-! SUPPORT. FAMILY, INIT_OK and EXT in every operation, whatever arrives and whatever the card answers (10_state.md R37, R41;
42_initialization.md R142): INIT clears the first two together, assigns a family before it sets INIT_OK, and assembles EXT32 after
every four bytes. -/
namespace Sys2Proof.Machine

/-- INIT_OK = 1 only with a family (R41). -/
def FamilyBacks (initOk : Bool) (f : Family) : Prop := initOk = true → f ≠ .none

/-- INIT before it has a family, or after a failure: INIT_OK = 0. -/
def Cleared (initOk : Bool) (_ : Family) : Prop := initOk = false

/-- INIT once it has a candidate. -/
def Candidate (initOk : Bool) (f : Family) : Prop := initOk = false ∧ f ≠ .none

/-- INIT at its end. -/
def Initialized (initOk : Bool) (f : Family) : Prop := initOk = true ∧ f ≠ .none

/-- EXT32 is the assembled EXT (R37). -/
def ExtAssembled (s : State) : Prop := s.ext32 = extValue s.ext

/-- A claim `I` together with one about INIT_OK and FAMILY, and, if `p`, with EXT32 assembled. -/
structure Guarded (I : State → Prop) (Q : Bool → Family → Prop) (p : Prop) (s : State) : Prop where
  holds : I s
  card : Q s.initOk s.family
  ext : p → ExtAssembled s

/-- What arrives while INIT_OK = 1 only with a family, every change and every buffer access keep `I`. -/
structure Guards (I A : State → Prop) : Prop where
  hears : ∀ s, I s → FamilyBacks s.initOk s.family → Hears I A s
  moves : ∀ l ∈ quietLabels ++ busLabels, ∀ s t, Move l s t → I s → I t
  count : ∀ s a b, I s → I { s with tries := a, byteIdx := b }
  read : ∀ a s t, Reads a s t → I s → I t
  write : ∀ a s t, Writes a s t → I s → I t

/-! ### Moves -/

theorem Move.initOk {l : Label} (hl : l ≠ .initOk) (hr : l ≠ .reset) {s t : State} (h : Move l s t) : t.initOk = s.initOk :=
  (h.unchanged hr).initOk (by simpa using hl.symm)

theorem Move.ext {l : Label} (hl : l ≠ .ext) (hr : l ≠ .reset) {s t : State} (h : Move l s t) :
    t.ext = s.ext ∧ t.ext32 = s.ext32 := (h.unchanged hr).ext (by simpa using hl.symm)

variable {I A : State → Prop} {Q Q' : Bool → Family → Prop} {p : Prop} {L : List Label} {W : Nat → Prop}

/-- A move of no kind that touches FAMILY, INIT_OK or EXT keeps what is said of them. -/
theorem Guarded.move {l : Label} {s t : State} (h : Guarded I Q p s) (hI : I t) (m : Move l s t)
    (hl : l ≠ .family ∧ l ≠ .initOk ∧ l ≠ .reset) (hp : p → l ≠ .ext) : Guarded I Q p t where
  holds := hI
  card := by rw [m.family hl.1 hl.2.2, m.initOk hl.2.1 hl.2.2]; exact h.card
  ext hp' := by
    obtain ⟨e, e'⟩ := m.ext (hp hp') hl.2.2
    rw [ExtAssembled, e, e']; exact h.ext hp'

theorem Guarded.imp {s : State} (h : Guarded I Q p s) (hQ : ∀ b f, Q b f → Q' b f) : Guarded I Q' p s :=
  ⟨h.holds, hQ _ _ h.card, h.ext⟩

/-- A piece without those kinds of change keeps it. -/
theorem Guards.keep (g : Guards I A) (hQ : ∀ b f, Q b f → FamilyBacks b f) (hL : .family ∉ L ∧ .initOk ∉ L) (hp : p → .ext ∉ L) :
    Holds L W (Guarded I Q p) A where
  hears s hs := by
    obtain ⟨t, ht, path, h⟩ | ⟨t, ht, h⟩ := g.hears s hs.holds (hQ _ _ hs.card)
    · refine .inl ⟨t, ht, path, ?_⟩
      have : Guarded (fun _ => True) Q p t := path.keeps
        (fun l hl s t m hs => by obtain rfl := List.mem_singleton.1 hl; exact hs.move trivial m (by simp) (by simp))
        ⟨trivial, hs.card, hs.ext⟩
      exact ⟨h, this.card, this.ext⟩
    · exact .inr ⟨t, ht, h⟩
  moves l hl hq s t m hs := hs.move (g.moves l hq s t m hs.holds) m
    ⟨fun e => hL.1 (e ▸ hl), fun e => hL.2 (e ▸ hl), fun e => absurd hq (by rw [e]; decide)⟩ fun h e => hp h (e ▸ hl)
  count s a b hs := ⟨g.count s a b hs.holds, hs.card, hs.ext⟩
  read _ a s t r hs := hs.move (g.read a s t r hs.holds) r.move (by simp) (by simp)
  write _ a _ s t w hs := hs.move (g.write a s t w hs.holds) w.move (by simp) (by simp)

/-! ### INIT -/

theorem Passes.leaves {α : Type} {m : Blk α} {s : State} {G F : State → Prop} (h : Passes G A m s) : Leaves L G F A (m s) := by
  obtain ⟨a, t, e, h⟩ | ⟨t, e, h⟩ := h
  · rw [e]; exact .ok h
  · rw [e]; exact .abandoned h

/-- A stage of INIT: from what is said of INIT_OK and FAMILY before to what is said after; a failure leaves INIT_OK = 0. -/
def Leads (I A : State → Prop) (p : Prop) (Q Q' : Bool → Family → Prop) {α : Type} (m : Blk α) : Prop :=
  ∀ s, Guarded I Q p s → Leaves (labelsOf .init) (Guarded I Q' p) (Guarded I Cleared p) A (m s)

theorem Leads.bind {α β : Type} {m : Blk α} {f : α → Blk β} {Q'' : Bool → Family → Prop} (hm : Leads I A p Q Q' m)
    (hf : ∀ a, Leads I A p Q' Q'' (f a)) : Leads I A p Q Q'' (m >>= f) := fun s hs => (hm s hs).bind fun a t => hf a t

theorem Leads.ite {α : Type} {c : Prop} [Decidable c] {a b : Blk α} (ha : Leads I A p Q Q' a) (hb : Leads I A p Q Q' b) :
    Leads I A p Q Q' (if c then a else b) := by
  split
  · exact ha
  · exact hb

theorem Leads.pure {α : Type} (a : α) : Leads I A p Q Q (pure a : Blk α) := fun _ hs => .ok hs

theorem Leads.get {α : Type} {f : State → Blk α} (hf : ∀ s, Leads I A p Q Q' (f s)) :
    Leads I A p Q Q' ((MonadState.get : Blk State) >>= f) := fun s hs => hf s s hs

theorem Leads.raise {c : Cause} (hc : c.outcome = .fail) (hQ : ∀ b f, Q b f → Cleared b f) : Leads I A p Q Q' (raise c) :=
  fun _ hs => .raised (.inl hc) (hs.imp hQ)

/-- A statement of INIT that only moves SEQ, polls or commands the card, after a failure of which INIT_OK = 0. -/
theorem Leads.keep {α : Type} {m : Blk α} (g : Guards I A) (hQ : ∀ b f, Q b f → Cleared b f)
    (hm : Built (fun _ => True) (.select :: lineLabels) (fun _ => True) m) : Leads I A p Q Q m := fun s hs =>
  (hm.leaves (g.keep (fun b f h => fun e => by rw [hQ b f h] at e; cases e) (by decide) fun _ => by decide)
    (fun _ _ => trivial) s hs).mono (by decide) (fun _ => id) (fun _ h => h.imp hQ) fun _ => id

/-- A statement at which what arrives lands, with nothing else. -/
theorem Leads.at (g : Guards I A) (hQ : ∀ b f, Q b f → FamilyBacks b f) (q : Seq) : Leads I A p Q Q (at_ q) := fun _ hs =>
  Passes.leaves <| by
    obtain ⟨a, t, e, h⟩ | h := at_passes (g.keep (L := [.seq]) (W := fun _ => True) hQ (by decide) fun _ => by decide) (by decide) q hs
    · exact .inl ⟨a, t, e, h.1⟩
    · exact .inr h

theorem setFamily_leads (g : Guards I A) {f : Family} (hf : f ≠ .none) : Leads I A p Cleared Candidate (setFamily f) := fun s hs =>
  .ok ⟨g.moves .family (by decide) s _ ⟨f, rfl⟩ hs.holds, ⟨hs.card, hf⟩, hs.ext⟩

theorem cleared_of_candidate : ∀ b f, Candidate b f → Cleared b f := fun _ _ => And.left

/-- EXT32 is assembled again after the four bytes of an extended response (R37, R105). -/
theorem getExtendedResponse_leads (g : Guards I A) (hQ : ∀ b f, Q b f → Cleared b f) : Leads I A p Q Q getExtendedResponse := by
  have hB : ∀ b f, Q b f → FamilyBacks b f := fun b f h e => by rw [hQ b f h] at e; cases e
  have byte : ∀ (j : Fin 4) (s : State), Guarded I Q False s → Passes (Guarded I Q False) A (receiveExt j) s := fun j s hs =>
    (xchg_passes (g.keep (L := [.exchange]) (W := fun _ => True) hB (by decide) False.elim) (by decide) filler hs).bind
      fun b t ht => .inl ⟨_, _, rfl, g.moves .ext (by decide) t _ ⟨t.ext.set j b, t.ext32, rfl⟩ ht.1.holds, ht.1.card,
        False.elim⟩
  intro s hs
  have h : Passes (Guarded I Q p) A getExtendedResponse s :=
    (byte 0 s ⟨hs.holds, hs.card, False.elim⟩).bind fun _ s1 h1 => (byte 1 s1 h1).bind fun _ s2 h2 =>
    (byte 2 s2 h2).bind fun _ s3 h3 => (byte 3 s3 h3).bind fun _ s4 h4 =>
    .inl ⟨_, { s4 with ext32 := extValue s4.ext }, rfl, g.moves .ext (by decide) s4 _ ⟨s4.ext, _, rfl⟩ h4.holds, h4.card,
      fun _ => rfl⟩
  exact h.leaves

section Init
variable (g : Guards I A)
include g

theorem initAt_leads (hQ : ∀ b f, Q b f → Cleared b f) (st : InitState) (n k : Nat) : Leads I A p Q Q (initAt st n k) :=
  .keep g hQ (initAt_built (by decide) _ _ _)

theorem command_leads (hQ : ∀ b f, Q b f → Cleared b f) (idx : Byte) (arg : Word) (crc : Byte) :
    Leads I A p Q Q (sendCommand idx arg crc) := .keep g hQ (command_built (by decide) _ _ _)

theorem lastTry_leads (hQ : ∀ b f, Q b f → Cleared b f) (st : InitState) (l n : Nat) {c : Cause} (hc : c.outcome = .fail) :
    Leads I A p Q Q (lastTry st l n c) := .keep g hQ (lastTry_built (by decide) _ _ _ hc)

/-- The family is assigned between two statements. -/
theorem setCandidate_leads {f : Family} (hf : f ≠ .none) (hQ : ∀ b f, Q b f → Cleared b f) (st : InitState) (n m : Nat) :
    Leads I A p Q Candidate (do initAt st n 1; setFamily f; initAt st m 1 : Blk Unit) :=
  (initAt_leads g hQ _ _ _).bind fun _ => Leads.bind (fun s hs => setFamily_leads g hf s (hs.imp hQ)) fun _ =>
    initAt_leads g cleared_of_candidate _ _ _

theorem voltageCheckLoop_leads (n : Nat) : Leads I A p Cleared Candidate (voltageCheckLoop n) := by
  have hQ : ∀ b f, Cleared b f → Cleared b f := fun _ _ => id
  induction n with
  | zero => exact .raise rfl hQ
  | succ n ih =>
    exact (initAt_leads g hQ _ _ _).bind fun _ => (initAt_leads g hQ _ _ _).bind fun _ => (command_leads g hQ _ _ _).bind fun _ =>
      (initAt_leads g hQ _ _ _).bind fun _ => .ite (setCandidate_leads g (by decide) hQ _ _ _)
        ((initAt_leads g hQ _ _ _).bind fun _ => (getExtendedResponse_leads g hQ).bind fun _ =>
          (initAt_leads g hQ _ _ _).bind fun _ => .ite (setCandidate_leads g (by decide) hQ _ _ _)
            ((lastTry_leads g hQ _ _ _ rfl).bind fun _ => ih))

theorem activateLoop_leads (hcs : Word) (n : Nat) : Leads I A p Candidate Candidate (activateLoop hcs n) := by
  have hQ := cleared_of_candidate
  induction n with
  | zero => exact .raise rfl hQ
  | succ n ih =>
    exact (initAt_leads g hQ _ _ _).bind fun _ => (initAt_leads g hQ _ _ _).bind fun _ => (command_leads g hQ _ _ _).bind fun _ =>
      (initAt_leads g hQ _ _ _).bind fun _ => .ite (setCandidate_leads g (by decide) hQ _ _ _)
        ((initAt_leads g hQ _ _ _).bind fun _ => (command_leads g hQ _ _ _).bind fun _ => (initAt_leads g hQ _ _ _).bind fun _ =>
          .ite ((lastTry_leads g hQ _ _ _ rfl).bind fun _ => ih) (initAt_leads g hQ _ _ _))

theorem askCapacity_leads : Leads I A p Candidate Candidate askCapacity := by
  have hQ := cleared_of_candidate
  exact (initAt_leads g hQ _ _ _).bind fun _ => (command_leads g hQ _ _ _).bind fun _ => (initAt_leads g hQ _ _ _).bind fun _ =>
    (getExtendedResponse_leads g hQ).bind fun _ => (initAt_leads g hQ _ _ _).bind fun _ =>
    .ite ((initAt_leads g hQ _ _ _).bind fun _ => fun s hs => setFamily_leads g (by decide) s (hs.imp hQ)) (.pure ())

theorem resolveFamily_leads : Leads I A p Candidate Candidate resolveFamily := by
  have hQ := cleared_of_candidate
  exact (initAt_leads g hQ _ _ _).bind fun _ => .get fun _ => .ite
    (.keep g hQ ((initAt_built (by decide) _ _ _).bind fun _ => .get (fun _ _ _ _ _ => rfl) fun _ _ => (setTries_built _).bind fun _ =>
      mmcActivateLoop_built (by decide) _))
    ((initAt_leads g hQ _ _ _).bind fun _ => .get fun _ => .ite (askCapacity_leads g) (.pure ()))

/-- `R.FAMILY <- 0; R.INIT_OK <- 0`: between the two nothing lands (R41, R142; log 28). -/
theorem clearCard_leads : Leads I A p Q Cleared clearCard := fun s hs =>
  .ok (t := { s with family := .none, seq := .init .rampUp 1 2, initOk := false })
    ⟨g.moves .initOk (by decide) { s with family := .none, seq := .init .rampUp 1 2 } _ ⟨false, rfl⟩
      (g.moves .seq (by decide) { s with family := .none } _ ⟨_, rfl⟩ (g.moves .family (by decide) s _ ⟨.none, rfl⟩ hs.holds)),
      rfl, hs.ext⟩

theorem setInitOk_leads : Leads I A p Candidate Initialized (setInitOk true) := fun s hs =>
  .ok ⟨g.moves .initOk (by decide) s _ ⟨true, rfl⟩ hs.holds, ⟨rfl, hs.card.2⟩, hs.ext⟩

/-- INIT ends with INIT_OK = 1 and a family, or fails with INIT_OK = 0 (R142, R144). -/
theorem bodyInit_leads : Leads I A p FamilyBacks Initialized bodyInit := by
  have hQ : ∀ b f, Cleared b f → Cleared b f := fun _ _ => id
  rw [bodyInit_eq]
  exact (Leads.at g (fun _ _ => id) _).bind fun _ => (clearCard_leads g).bind fun _ => (initAt_leads g hQ _ _ _).bind fun _ =>
    .get fun _ => (Leads.keep g hQ (fillers_built (by decide) _)).bind fun _ =>
    (Leads.keep g hQ (spiIdle_built (by decide) (by decide))).bind fun _ =>
    ((initAt_leads g hQ _ _ _).bind fun _ => .get fun _ => (Leads.keep g hQ (setTries_built _)).bind fun _ =>
      voltageCheckLoop_leads g _).bind fun _ =>
    ((initAt_leads g cleared_of_candidate _ _ _).bind fun _ => .get fun _ => (initAt_leads g cleared_of_candidate _ _ _).bind fun _ =>
      .get fun _ => (Leads.keep g cleared_of_candidate (setTries_built _)).bind fun _ => activateLoop_leads g _ _).bind fun _ =>
    (resolveFamily_leads g).bind fun _ => (Leads.keep g cleared_of_candidate (fixBlockLen_built (by decide))).bind fun _ =>
    (initAt_leads g cleared_of_candidate _ _ _).bind fun _ => (setInitOk_leads g).bind fun _ => .at g (fun _ _ h _ => h.2) _

end Init

end Sys2Proof.Machine
end

section
/-! SUPPORT. FAMILY, INIT_OK and EXT after every instruction and every step. -/
namespace Sys2Proof.Machine

variable {I A : State → Prop} {p : Prop} {L : List Label} {W : Nat → Prop} {G G' F F' : State → Prop}

theorem RunEnds.mono {t : State} (h : RunEnds L G F A t) (hG : ∀ t, G t → G' t) (hF : ∀ t, F t → F' t) : RunEnds L G' F' A t := by
  cases h with
  | ok h hc => exact .ok (hG _ h) hc
  | failed hc h hs => exact .failed hc (hF _ h) hs
  | stuck hm h => exact .stuck hm (hF _ h)
  | abandoned h => exact .abandoned h

theorem Ended.mono {op : BitVec 4} {s t : State} (h : Ended op L G F A s t) (hG : ∀ t, G t → G' t) (hF : ∀ t, F t → F' t) :
    Ended op L G' F' A s t := by
  cases h with
  | ignored hb => exact .ignored hb
  | refused c hb hc => exact .refused c hb hc
  | ran hb hc h => exact .ran hb hc (h.mono hG hF)

/-! ### Instructions -/

theorem Guards.finishes {Q : Bool → Family → Prop} (g : Guards I A) (hQ : ∀ b f, Q b f → FamilyBacks b f) :
    Finishes (Guarded I Q p) A := (g.keep (W := fun _ => True) hQ (by decide) fun _ => by decide).finishes

/-- INIT ends OK with INIT_OK = 1 and a family, or fails with INIT_OK = 0 (R142, R144). -/
theorem exec_init_ended (g : Guards I A) {s : State} (hs : s.busy = false → Guarded I FamilyBacks p (started 0x2#4 s)) :
    Ended 0x2#4 (labelsOf .init) (Guarded I Initialized p) (Guarded I Cleared p) A s (start 0x2#4 bodyInit s) :=
  start_ended fun hb _ => run_ends (bodyInit_leads g _ (hs hb))
    (g.finishes fun _ _ h _ => h.2) (g.finishes fun b f h e => by rw [h] at e; cases e)

/-- DEINIT only clears INIT_OK (R143). -/
theorem bodyDeinit_leaves (g : Guards I A) {s : State} (hs : Guarded I FamilyBacks p s) :
    Leaves (labelsOf .deinit) (Guarded I FamilyBacks p) (Guarded I FamilyBacks p) A (bodyDeinit s) := by
  have k : Holds [.seq] (fun _ => True) (Guarded I FamilyBacks p) A := g.keep (fun _ _ => id) (by decide) fun _ => by decide
  have h : Passes (fun t => Guarded I FamilyBacks p t ∧ t.cs = s.cs) A bodyDeinit s :=
    (at_passes k (by decide) _ hs).bind fun _ t ht => by
      have cleared : Guarded I FamilyBacks p { t with initOk := false } :=
        ⟨g.moves .initOk (by decide) t _ ⟨false, rfl⟩ ht.1.holds, Bool.noConfusion, ht.1.ext⟩
      have last := at_passes k (by decide) (.body 2 1) cleared
      exact ht.2 ▸ last
  exact (Passes.leaves h).mono (List.Subset.refl _) (fun _ => And.left) (fun _ => id) fun _ => id

theorem labelsOf_card {i : Instr} (hi : i ≠ .init) (hd : i ≠ .deinit) :
    Label.family ∉ labelsOf i ∧ Label.initOk ∉ labelsOf i ∧ Label.ext ∉ labelsOf i := by
  cases i
  case init => exact absurd rfl hi
  case deinit => exact absurd rfl hd
  all_goals simp [labelsOf, lineLabels]

/-- Every request keeps a claim together with R41 and with EXT32 assembled. -/
theorem exec_guarded {i : Instr} {op : BitVec 4} (h : i.opCode? = some op) (g : Guards I A) {s : State}
    (hs : s.busy = false → preCheck op s = none → Guarded I FamilyBacks p (started op s)) :
    ∃ t, exec i s = .next t ∧ Ended op (labelsOf i) (Guarded I FamilyBacks p) (Guarded I FamilyBacks p) A s t := by
  have ke : Finishes (Guarded I FamilyBacks p) A := g.finishes fun _ _ => id
  by_cases hi : i = .init
  · subst hi
    obtain rfl : (0x2#4 : BitVec 4) = op := Option.some.inj h
    exact ⟨_, rfl, (exec_init_ended g fun hb => hs hb (preCheck_always (.inr (.inl rfl)) s)).mono
      (fun _ h => h.imp fun _ _ h _ => h.2) fun _ h => h.imp fun b f h e => by rw [h] at e; cases e⟩
  by_cases hd : i = .deinit
  · subst hd
    obtain rfl : (0x3#4 : BitVec 4) = op := Option.some.inj h
    exact ⟨_, rfl, start_ended fun hb hc => run_ends (bodyDeinit_leaves g (hs hb hc)) ke ke⟩
  · obtain ⟨hf, ho, he⟩ := labelsOf_card hi hd
    exact exec_ended h (g.keep (fun _ _ => id) ⟨hf, ho⟩ fun _ => he) ke hs

/-- So does every wire row. -/
theorem exec_wireGuarded {i : Instr} (h : i.opCode? = none) (g : Guards I A) {s : State} (hs : Guarded I FamilyBacks p s) :
    ∃ t, exec i s = .next t ∧ (Guarded I FamilyBacks p t ∨ A t) := by
  obtain ⟨hf, ho, he⟩ := labelsOf_card (i := i) (fun e => by rw [e] at h; cases h) fun e => by rw [e] at h; cases h
  exact exec_wireLeaves h (g.keep (fun _ _ => id) ⟨hf, ho⟩ fun _ => he) hs

/-! ### Steps -/

/-- An input that is due is an instruction, or a move of the outside, or a reset. -/
theorem deliver_cases (x : Input) (s : State) : (∃ f, deliver x s = .instr f s) ∨ (∃ t, deliver x s = .quiet t ∧ Move .outside s t) ∨
    deliver x s = .quiet (resetBlock s) ∨ deliver x s = .refused := by
  cases x with
  | reset => exact .inr (.inr (.inl rfl))
  | bufRead a => exact .inr (.inl ⟨_, rfl, move_requesterRead s a⟩)
  | bufWrite a v => exact .inr (.inl ⟨_, rfl, move_requesterWrite s a v⟩)
  | access acc =>
    by_cases hi : acc.inInterface = false
    · exact .inr (.inr (.inr (by simp [deliver, hi])))
    · cases hr : acc.request? with
      | some w => exact .inl ⟨_, by simp only [deliver, hi, hr]; rfl⟩
      | none => exact .inr (.inl ⟨_, by simp only [deliver, hi, hr]; rfl, move_accessReg s acc⟩)

/-- What a step is: an instruction, on the state with SEQ at IDLE or with the input taken; what arrives; or nothing. -/
theorem turn_cases (s : State) :
    (∃ f u, turn s = .instr f u ∧ (u = { s with seq := .idle } ∨ ∃ rest, u = { s with inbox := rest })) ∨
    (∃ t, turn s = .quiet t ∧ (Path [.outside] s t ∨ ∃ i, t = { resetBlock s with inbox := i })) ∨
    turn s = .refused ∨ turn s = .stuck := by
  cases hf : s.seq.fetch? with
  | some f => exact .inl ⟨f, _, by rw [turn, hf], .inl rfl⟩
  | none =>
    rw [turn, hf]
    show (∃ f u, arrivals s = _ ∧ _) ∨ (∃ t, arrivals s = _ ∧ _) ∨ _
    cases hi : s.inbox with
    | nil =>
      cases hb : s.busy with
      | true => exact .inr (.inr (.inr (by simp [arrivals, hi, hb])))
      | false => exact .inr (.inl ⟨s, by simp [arrivals, hi, hb], .inl (.refl s)⟩)
    | cons a rest =>
      have taken : Move .outside s { s with inbox := rest } := move_inbox s rest
      by_cases hw : a.wait = 0
      · have due : arrivals s = deliver a.input { s with inbox := rest } := by simp [arrivals, hi, hw]
        rw [due]
        obtain ⟨f, e⟩ | ⟨t, e, m⟩ | e | e := deliver_cases a.input { s with inbox := rest }
        · exact .inl ⟨f, _, e, .inr ⟨rest, rfl⟩⟩
        · exact .inr (.inl ⟨t, e, .inl (.step .outside (by simp) taken (.one .outside (by simp) m))⟩)
        · exact .inr (.inl ⟨_, e, .inr ⟨rest, rfl⟩⟩)
        · exact .inr (.inr (.inl e))
      · exact .inr (.inl ⟨{ s with inbox := { a with wait := a.wait - 1 } :: rest }, by simp [arrivals, hi, hw],
          .inl (.one .outside (by simp) (move_inbox s _))⟩)

/-- A step that answers a next state ran an instruction, or served what arrived. -/
theorem step_cases {s t : State} (h : step s = .next t) :
    (∃ i u, exec i u = .next t ∧ (u = { s with seq := .idle } ∨ ∃ rest, u = { s with inbox := rest })) ∨
    Path [.outside] s t ∨ ∃ i, t = { resetBlock s with inbox := i } := by
  obtain ⟨f, u, e, hu⟩ | ⟨u, e, hu⟩ | e | e := turn_cases s <;> rw [step, e] at h
  · cases hd : decode f with
    | ok i => exact .inl ⟨i, u, by simpa [hd] using h, hu⟩
    | error d => simp [hd] at h
  · obtain rfl := Host.Outcome.next.inj h
    exact .inr hu
  · cases h
  · cases h

end Sys2Proof.Machine
end

section
/-! SUPPORT. The invariant (10_state.md R22, R27, R33, R34, R37, R38, R41; 20_memory.md R51, R61): what every move keeps, what stands
while an operation runs, and what its completion, a reset and a start leave. -/
namespace Sys2Proof.Machine

/-! ### What every move keeps -/

/-- The part of the invariant that every move keeps. -/
structure Live (s : State) : Prop where
  memCanonical : memWf s.mem = true
  memInside : ∀ c ∈ s.mem, c.1 < 2 ^ s.cfg.bufAddrWidth
  blockSize : s.blksize = 0x00000000#32 ∨ s.blksize = 0x00000200#32
  drespMasked : drespMask s.lastDresp = s.lastDresp
  exchangesCounted : s.xchgs = exchangeCount s.trace

theorem bufAddr_lt (s : State) (a : Nat) : bufAddr s a < 2 ^ s.cfg.bufAddrWidth := Nat.mod_lt _ (Nat.two_pow_pos _)

theorem drespMask_idem (d : Byte) : drespMask (drespMask d) = drespMask d := by
  rw [drespMask, drespMask, BitVec.and_assoc, BitVec.and_self]

/-- A change of other fields, and events that are no exchange, keep it. -/
theorem Live.kept {s t : State} (h : Live s) (mem : t.mem = s.mem) (cfg : t.cfg = s.cfg) (blksize : t.blksize = s.blksize)
    (lastDresp : t.lastDresp = s.lastDresp) (xchgs : t.xchgs = s.xchgs) (count : exchangeCount t.trace = exchangeCount s.trace) :
    Live t where
  memCanonical := by rw [mem]; exact h.memCanonical
  memInside := by rw [mem, cfg]; exact h.memInside
  blockSize := by rw [blksize]; exact h.blockSize
  drespMasked := by rw [lastDresp]; exact h.drespMasked
  exchangesCounted := by rw [xchgs, count]; exact h.exchangesCounted

/-- Storing a byte keeps memory canonical and inside the address space. -/
theorem Live.put {s : State} (h : Live s) (a : Nat) (v : Byte) :
    memWf (memPut s.mem (bufAddr s a) v) = true ∧
      ∀ c ∈ memPut s.mem (bufAddr s a) v, c.1 < 2 ^ s.cfg.bufAddrWidth := by
  refine ⟨memWf_memPut h.memCanonical _ _, fun c hc => ?_⟩
  obtain rfl | hc := mem_memPut hc
  · exact bufAddr_lt s a
  · exact h.memInside c hc

theorem Live.move {l : Label} (hr : l ≠ .reset) {s t : State} (m : Move l s t) (h : Live s) : Live t := by
  cases l
  case reset => exact absurd rfl hr
  case select | deselect => obtain rfl := m; exact h.kept rfl rfl rfl rfl rfl rfl
  case capkb => obtain rfl := m; exact h.kept rfl rfl rfl rfl rfl rfl
  case blksize => obtain rfl := m; exact ⟨h.memCanonical, h.memInside, .inr rfl, h.drespMasked, h.exchangesCounted⟩
  case seq | lastR1 | csd | family | initOk =>
    obtain ⟨_, rfl⟩ := m; exact h.kept rfl rfl rfl rfl rfl rfl
  case dresp =>
    obtain ⟨d, rfl⟩ := m; exact ⟨h.memCanonical, h.memInside, h.blockSize, drespMask_idem d, h.exchangesCounted⟩
  case ext => obtain ⟨_, _, rfl⟩ := m; exact h.kept rfl rfl rfl rfl rfl rfl
  case pin => obtain ⟨_, _, _, rfl⟩ := m; exact h.kept rfl rfl rfl rfl rfl rfl
  case exchange =>
    obtain ⟨_, _, _, rfl⟩ := m
    exact ⟨h.memCanonical, h.memInside, h.blockSize, h.drespMasked, congrArg (· + 1) h.exchangesCounted⟩
  case counters | memRead =>
    obtain ⟨_, _, _, _, rfl⟩ := m; exact h.kept rfl rfl rfl rfl rfl rfl
  case memWrite =>
    obtain ⟨a, _, _, w, _, _, _, rfl, _⟩ := m
    exact ⟨(h.put a w).1, (h.put a w).2, h.blockSize, h.drespMasked, h.exchangesCounted⟩
  case outside =>
    obtain ⟨_, _, _, _, _, _, _, _, _, _, rfl, rfl | ⟨a, v, rfl⟩⟩ := m
    · exact h.kept rfl rfl rfl rfl rfl rfl
    · exact ⟨(h.put a v).1, (h.put a v).2, h.blockSize, h.drespMasked, h.exchangesCounted⟩

/-- While an operation runs: BUSY = 1, DONE = 0, and what every move keeps. -/
structure Running (s : State) : Prop where
  busy : s.busy = true
  notDone : s.done = false
  live : Live s

theorem Running.move {l : Label} (hr : l ≠ .reset) {s t : State} (m : Move l s t) (h : Running s) : Running t :=
  ⟨(m.frame hr).1.busy.trans h.busy, (m.unchanged hr).done.trans h.notDone, h.live.move hr m⟩

/-! ### The invariant and its parts -/

theorem Inv.live {s : State} (h : Inv s) : Live s :=
  ⟨h.memCanonical, h.memInside, h.blockSize, h.drespMasked, h.exchangesCounted⟩

theorem extAssembled_reset : State.reset.ext32 = extValue State.reset.ext := by decide

theorem drespMasked_reset : drespMask State.reset.lastDresp = State.reset.lastDresp := by decide

/-- A reset leaves the invariant (R250, R251). -/
theorem Live.reset {s : State} (h : Live s) (i : List Arrival) : Inv { resetBlock s with inbox := i } where
  memCanonical := h.memCanonical
  memInside := h.memInside
  familyKnown := Bool.noConfusion
  extAssembled := extAssembled_reset
  idleReleased _ := rfl
  idleSeq _ := .inl rfl
  notDoneWhileBusy := Bool.noConfusion
  blockSize := .inl rfl
  drespMasked := drespMasked_reset
  exchangesCounted := by
    cases hc : s.cs <;> simpa [resetBlock, hc, exchangeCount] using h.exchangesCounted

/-- A stuck operation keeps the invariant (D38). -/
theorem Inv.of_running {s : State} (h : Guarded Running FamilyBacks True s) : Inv s where
  memCanonical := h.holds.live.memCanonical
  memInside := h.holds.live.memInside
  familyKnown := h.card
  extAssembled := h.ext trivial
  idleReleased hb := absurd (h.holds.busy.symm.trans hb) Bool.noConfusion
  idleSeq hb := absurd (h.holds.busy.symm.trans hb) Bool.noConfusion
  notDoneWhileBusy _ := h.holds.notDone
  blockSize := h.holds.live.blockSize
  drespMasked := h.holds.live.drespMasked
  exchangesCounted := h.holds.live.exchangesCounted

/-- A completion with the bus released leaves the invariant (R224). -/
theorem Inv.of_complete {I : State → Prop} (hI : ∀ s, I s → Live s) {s : State} (h : Guarded I FamilyBacks True s) (hc : s.cs = false)
    (o : Result) : Inv (complete o s) where
  memCanonical := (hI s h.holds).memCanonical
  memInside := (hI s h.holds).memInside
  familyKnown := h.card
  extAssembled := h.ext trivial
  idleReleased _ := hc
  idleSeq _ := .inl rfl
  notDoneWhileBusy := Bool.noConfusion
  blockSize := (hI s h.holds).blockSize
  drespMasked := (hI s h.holds).drespMasked
  exchangesCounted := (hI s h.holds).exchangesCounted

/-- A start keeps what stands of FAMILY, INIT_OK and EXT, with what every move keeps (R222). -/
theorem Inv.started {s : State} (h : Inv s) (op : BitVec 4) : Guarded Running FamilyBacks True (started op s) :=
  ⟨⟨rfl, rfl, h.live.kept rfl rfl rfl rfl rfl rfl⟩, h.familyKnown, fun _ => h.extAssembled⟩

/-- Every kind of change an operation makes, and whatever arrives, keeps what stands while it runs; a reset leaves the invariant. -/
theorem running_guards : Guards Running Inv where
  hears _ hs _ := hears_of_outside (F := Running) (fun _ _ m h => h.move (by simp) m) (fun _ i h => h.live.reset i) hs
  moves l hl _ _ m h := h.move (fun e => absurd hl (by rw [e]; decide)) m
  count _ _ _ h := ⟨h.busy, h.notDone, h.live.kept rfl rfl rfl rfl rfl rfl⟩
  read _ _ _ r h := h.move (by simp) r.move
  write _ _ _ w h := h.move (by simp) w.move

/-! ### Instructions and steps -/

/-- The kinds of change of a wire row, and what arrives. -/
def wireLabels : List Label := [.outside, .exchange, .lastR1, .dresp]

theorem labelsOf_wire {i : Instr} (h : i.opCode? = none) : labelsOf i ⊆ wireLabels := by
  cases i <;> simp only [Instr.opCode?, reduceCtorEq] at h <;> simp [labelsOf, wireLabels]

/-- Those kinds of change keep the whole invariant, of an idle block too. -/
theorem Inv.move {l : Label} (hl : l ∈ wireLabels) {s t : State} (m : Move l s t) (h : Inv s) : Inv t := by
  have hr : l ≠ .reset := fun e => absurd hl (by rw [e]; decide)
  have live := h.live.move hr m
  have same := (m.frame hr).1
  have unch := (m.unchanged hr).mono (K := wireLabels) (by simpa using hl)
  have hcs := unch.cs (by decide) (by decide)
  obtain ⟨he, he'⟩ := unch.ext (by decide)
  exact {
    memCanonical := live.memCanonical
    memInside := live.memInside
    familyKnown := by rw [unch.initOk (by decide), unch.family (by decide)]; exact h.familyKnown
    extAssembled := by rw [he, he']; exact h.extAssembled
    idleReleased := by rw [same.busy, hcs]; exact h.idleReleased
    idleSeq := by rw [same.busy, unch.seq (by decide)]; exact h.idleSeq
    notDoneWhileBusy := by rw [same.busy, unch.done]; exact h.notDoneWhileBusy
    blockSize := live.blockSize
    drespMasked := live.drespMasked
    exchangesCounted := live.exchangesCounted }

theorem Inv.outside {s t : State} (p : Path [.outside] s t) (h : Inv s) : Inv t :=
  p.keeps (fun l hl _ _ m hs => hs.move (l := l) (by simp_all [wireLabels]) m) h

/-- The parts of a wire row keep the invariant. -/
theorem inv_holds {L : List Label} (hL : L ⊆ wireLabels) : Holds L (fun _ => True) Inv Inv where
  hears _ hs := hears_of_outside (F := Inv) (fun _ _ m h => h.move (by decide) m) (fun _ i h => h.live.reset i) hs
  moves _ hl _ _ _ m h := h.move (hL hl) m
  count _ _ _ h := ⟨h.memCanonical, h.memInside, h.familyKnown, h.extAssembled, h.idleReleased, h.idleSeq, h.notDoneWhileBusy,
    h.blockSize, h.drespMasked, h.exchangesCounted⟩
  read hm := absurd (hL hm) (by decide)
  write hm := absurd (hL hm) (by decide)

theorem exec_keeps_inv {i : Instr} {s t : State} (h : Inv s) (ht : exec i s = .next t) : Inv t := by
  cases hop : i.opCode? with
  | none =>
    obtain ⟨u, hu, hi⟩ := exec_wireLeaves hop (inv_holds (labelsOf_wire hop)) h
    obtain rfl : u = t := Host.Outcome.next.inj (hu.symm.trans ht)
    exact hi.elim id id
  | some op =>
    obtain ⟨u, hu, hend⟩ := exec_guarded hop running_guards fun _ _ => h.started op
    obtain rfl : u = t := Host.Outcome.next.inj (hu.symm.trans ht)
    cases hend with
    | ignored _ => exact h
    | refused c hb _ =>
      exact .of_complete (I := Live) (s := latch op s) (fun _ => id)
        ⟨h.live.kept rfl rfl rfl rfl rfl rfl, h.familyKnown, fun _ => h.extAssembled⟩
        (h.idleReleased hb) _
    | ran _ _ hrun =>
      cases hrun with
      | ok hg hc => exact .of_complete (fun _ => Running.live) hg hc _
      | failed _ hg hc => exact .of_complete (fun _ => Running.live) hg hc _
      | stuck _ hg => exact .of_running hg
      | abandoned ha => exact ha

/-- Settles O55. -/
theorem resetMeetsInvariant : Obligations.ResetMeetsInvariant :=
  Live.reset (s := State.reset) ⟨rfl, by simp [State.reset], .inl rfl, by decide, rfl⟩ []

/-- Settles O56: a step runs an instruction on a state of the invariant, or serves what arrives, or resets the block. -/
theorem stepKeepsInvariant : Obligations.StepKeepsInvariant := by
  intro s t hs ht
  obtain ⟨i, u, hu, hi⟩ | p | ⟨i, rfl⟩ := step_cases ht
  · refine exec_keeps_inv ?_ hu
    obtain rfl | ⟨rest, rfl⟩ := hi
    · exact ⟨hs.memCanonical, hs.memInside, hs.familyKnown, hs.extAssembled, hs.idleReleased, fun _ => .inl rfl, hs.notDoneWhileBusy,
        hs.blockSize, hs.drespMasked, hs.exchangesCounted⟩
    · exact hs.move (l := .outside) (by decide) (move_inbox s rest)
  · exact hs.outside p
  · exact hs.live.reset i

end Sys2Proof.Machine
end

section
/-! SUPPORT. The register window (10_state.md R20 to R29): the bits of STATUS, and what a due access does. -/
namespace Sys2Proof.Machine

/-! ### STATUS -/

/-- The fields of a word put together as STATUS is (R22). -/
theorem statusFields (d p i b : Bool) (f : BitVec 3) (r : BitVec 2) :
    let w : BitVec (23 + 1 + 1 + 3 + 1 + 2 + 1) :=
      0#23 ++ BitVec.ofBool d ++ BitVec.ofBool p ++ f ++ BitVec.ofBool i ++ r ++ BitVec.ofBool b
    w.getLsbD 0 = b ∧ w.extractLsb' 1 2 = r ∧ w.getLsbD 3 = i ∧ w.extractLsb' 4 3 = f ∧ w.getLsbD 7 = p ∧ w.getLsbD 8 = d ∧
      w.extractLsb' 9 23 = 0#23 := by
  refine ⟨?_, ?_, ?_, ?_, ?_, ?_, ?_⟩ <;> simp only [BitVec.getLsbD_append, BitVec.extractLsb'_append_eq_ite]
  all_goals simp

theorem statusWord_fields (s : State) : (statusWord s).getLsbD 0 = s.busy ∧ (statusWord s).extractLsb' 1 2 = resultCode s.result ∧
    (statusWord s).getLsbD 3 = s.initOk ∧ (statusWord s).extractLsb' 4 3 = familyCode s.family ∧
    (statusWord s).getLsbD 7 = s.present ∧ (statusWord s).getLsbD 8 = s.done ∧ (statusWord s).extractLsb' 9 23 = 0#23 :=
  statusFields s.done s.present s.initOk s.busy (familyCode s.family) (resultCode s.result)

/-- Settles O10. -/
theorem statusBits : Obligations.StatusBits := statusWord_fields

/-- Settles O11: each value is the one `State.reset` gives. -/
theorem resetValues : Obligations.ResetValues := by
  refine ⟨by decide, rfl, rfl, rfl, rfl, rfl, rfl, rfl, rfl, rfl, rfl, rfl, rfl, rfl, rfl, by decide, rfl, rfl, by decide⟩

/-! ### A step that serves what is due -/

/-- A step of a sequencer that stands before no wire format serves what arrives. -/
theorem turn_arrivals {s : State} (h : s.seq.fetch? = none) : turn s = arrivals s := by rw [turn, h]

/-- An input with no statement or event before it is due. -/
theorem arrivals_due {s : State} {x : Input} {rest : List Arrival} (h : s.inbox = ⟨0, x⟩ :: rest) :
    arrivals s = deliver x { s with inbox := rest } := by simp [arrivals, h]

/-- A due request runs the instruction it decodes to. -/
theorem step_request {s : State} {w : Word} {i : Instr} {rest : List Arrival} (h : s.seq.fetch? = none)
    (hi : s.inbox = ⟨0, .access ⟨0x00, 32, some w⟩⟩ :: rest) (hd : decode (.request w) = .ok i) :
    step s = exec i { s with inbox := rest } := by
  have hm : w.msb = true := by
    by_contra hm
    simp [decode, hm] at hd
  have hr : (⟨0x00, 32, some w⟩ : Access).request? = some w := by simp [Access.request?, hm]
  have hdue : turn s = .instr (.request w) { s with inbox := rest } := by
    rw [turn_arrivals h, arrivals_due hi, deliver, hr]; rfl
  rw [step, hdue]; simp only [hd]

/-- A wire format the sequencer stands before runs the instruction it decodes to. -/
theorem step_wire {s : State} {slot : Slot} {bytes : List Byte} {i : Instr} (h : s.seq = .wire slot bytes)
    (hd : decode (.wire slot bytes) = .ok i) : step s = exec i { s with seq := .idle } := by
  have hturn : turn s = .instr (.wire slot bytes) { s with seq := .idle } := by rw [turn, h]; rfl
  rw [step, hturn]; simp only [hd]

/-- A due access of the interface that starts no operation only reads or writes its register. -/
theorem step_access {s : State} {a : Access} {rest : List Arrival} (h : s.seq.fetch? = none) (hi : s.inbox = ⟨0, .access a⟩ :: rest)
    (ha : a.inInterface = true) (hr : a.request? = none) : step s = .next (accessReg { s with inbox := rest } a) := by
  have hdue : turn s = .quiet (accessReg { s with inbox := rest } a) := by
    rw [turn_arrivals h, arrivals_due hi, deliver, hr]; simp only [ha]; rfl
  rw [step, hdue]

theorem inInterface_word {offset : Nat} (h : offset % 4 = 0) (v : Option Word) : (⟨offset, 32, v⟩ : Access).inInterface = true := by
  simp [Access.inInterface, h]

/-- A due 32-bit read gives the register's value and changes nothing else. -/
theorem step_read {s : State} {offset : Nat} {rest : List Arrival} (h : s.seq.fetch? = none) (ha : offset % 4 = 0)
    (hi : s.inbox = ⟨0, .access ⟨offset, 32, none⟩⟩ :: rest) :
    step s = .next { s with inbox := rest, rdata := readReg { s with inbox := rest } offset } :=
  step_access h hi (inInterface_word ha none) rfl

/-- A due 32-bit write that starts no operation writes the register. -/
theorem step_write {s : State} {offset : Nat} {v : Word} {rest : List Arrival} (h : s.seq.fetch? = none) (ha : offset % 4 = 0)
    (hi : s.inbox = ⟨0, .access ⟨offset, 32, some v⟩⟩ :: rest) (hv : ¬ (offset = 0x00 ∧ v.msb = true)) :
    step s = .next (writeReg { s with inbox := rest } offset v) :=
  step_access h hi (inInterface_word ha _) (if_neg hv)

/-- Above BLKSIZE every offset reads 0 and ignores a write (R28). -/
theorem readReg_reserved (s : State) {offset : Nat} (h : 0x18 < offset) : readReg s offset = 0x00000000#32 := by
  unfold readReg
  split <;> simp_all

theorem writeReg_reserved (s : State) {offset : Nat} (h : 0x18 < offset) (v : Word) : writeReg s offset v = s := by
  unfold writeReg
  split <;> simp_all

/-! ### The statements -/

/-- Settles O6: `placeFetch` makes a request due, or puts the sequencer before the wire format. -/
theorem stepRunsDecoded : Obligations.StepRunsDecoded := by
  refine ⟨fun s w i rest h hi hd => step_request h hi hd, fun s slot bytes i h hd => step_wire h hd, fun s w i h hd => ?_,
    fun s slot bytes i hd => ?_⟩
  · have hseq : (placeFetch s (.request w)).seq = s.seq := by simp only [placeFetch, h]
    rw [step_request (by rw [hseq, h]) rfl hd]
    simp only [placeFetch, h]
  · rw [step_wire (by rfl) hd]
    rfl

/-- Settles O7. -/
theorem registerWindow : Obligations.RegisterWindow := by
  intro s offset v rest h ha read write
  refine ⟨fun hi => ⟨_, step_read h ha hi, ?_⟩, fun hi => ?_⟩
  · refine ⟨?_, ?_, ?_, ?_, ?_, ?_, ?_⟩ <;> rintro rfl <;> rfl
  · have writes : ¬ (offset = 0x00 ∧ v.msb = true) → step s = .next (writeReg { s with inbox := rest } offset v) :=
      step_write h ha hi
    refine ⟨?_, ?_, ?_, ?_, ?_⟩
    · rintro rfl hv; exact writes (by simp [hv])
    · rintro (rfl | rfl | rfl) <;> exact writes (by simp)
    · rintro rfl; exact writes (by simp)
    · rintro rfl; exact writes (by simp)
    · rintro rfl; exact writes (by simp)

/-- Settles O8. -/
theorem reservedOffsets : Obligations.ReservedOffsets := fun s offset v rest h ha ho =>
  ⟨fun hi => by rw [step_read h ha hi, readReg_reserved _ ho],
    fun hi => by rw [step_write h ha hi (by omega), writeReg_reserved _ ho]⟩

/-- Settles O9. -/
theorem accessOutsideRefused : Obligations.AccessOutsideRefused := by
  intro s a rest h hi ha
  have hout : a.inInterface = false := by
    obtain hw | ho := ha
    · simp [Access.inInterface, hw]
    · simp [Access.inInterface, ho]
  have hdue : turn s = .refused := by rw [turn_arrivals h, arrivals_due hi, deliver, if_pos hout]
  rw [step, hdue]

/-- Settles O17: the pre-check NOT_INIT ends each data operation. -/
theorem notInitializedFails : Obligations.NotInitializedFails := by
  intro s i op hop hb hi h1 h2 hf
  obtain ⟨body, he, -⟩ := exec_program hop
  have hm : op.toNat = 0x8 ∨ op.toNat = 0xA → s.family ≠ .mmc := fun h => hf <| by
    cases i <;> simp only [Instr.opCode?, reduceCtorEq, Option.some.injEq] at hop <;> subst hop <;> simp_all
  rw [he, start_refused hb body (preCheck_notInit h1 h2 hi hm)]
  rfl

/-- Settles O46. -/
theorem r1Received : Obligations.R1Received := by
  intro s status q
  show Host.Outcome.next (alone (receiveR1 (0#1 ++ status)) s) = _
  have h : receiveR1 (0#1 ++ status) s = .ok () { s with
      lastR1 := 0#1 ++ status, xchgs := s.xchgs + 1, trace := .xchg filler (0#1 ++ status) :: s.trace } := by
    rw [receiveR1, blk_bind_ok (receive_quiet q _)]; rfl
  rw [alone_ok h]; rfl

/-- A data-response byte is received in one exchange, and LAST_DRESP holds its masked value (R82, R126). -/
theorem receiveDresp_quiet {s : State} (q : Quiet s) (d : Byte) : alone (receiveDresp d) s =
    { s with lastDresp := drespMask d, xchgs := s.xchgs + 1, trace := .xchg filler d :: s.trace } := by
  have h : receiveDresp d s = .ok (drespAccepted (drespMask d))
      { s with lastDresp := drespMask d, xchgs := s.xchgs + 1, trace := .xchg filler d :: s.trace } := by
    rw [receiveDresp, blk_bind_ok (receive_quiet q _)]; rfl
  rw [alone_ok h]

/-- The masked value of a data-response byte is its three status bits (R82). -/
theorem drespMask_drespByte : ∀ (hi : BitVec 4) (status : BitVec 3) (lo : BitVec 1),
    drespMask (drespByte hi status lo) = 0#4 ++ status ++ 0#1 := by decide

/-- Settles O48. -/
theorem dataResponsesReceived : Obligations.DataResponsesReceived := by
  intro s hi lo q
  refine ⟨?_, ?_, ?_⟩ <;> refine congrArg Host.Outcome.next ((receiveDresp_quiet q _).trans ?_) <;>
    rw [drespMask_drespByte] <;> rfl

end Sys2Proof.Machine
end

section
/-! SUPPORT. INIT_OK = 1 only with a family (10_state.md R41), in what a requester reads of STATUS meanwhile too; and who writes FAMILY,
INIT_OK, CAPKB and BLKSIZE (R26, R27, R31, R32). -/
namespace Sys2Proof.Machine

/-! ### INIT_OK and FAMILY -/

/-- INIT_OK = 1 only with a family, of a state. -/
def Backed (s : State) : Prop := FamilyBacks s.initOk s.family

theorem familyCode_mem (f : Family) : familyCode f ∈ [1#3, 2#3, 3#3, 4#3] ↔ f ≠ .none := by
  cases f <;> decide

theorem backed_iff (s : State) : (s.initOk = true → familyCode s.family ∈ [1#3, 2#3, 3#3, 4#3]) ↔ Backed s :=
  imp_congr_right fun _ => familyCode_mem s.family

theorem backed_reset (s : State) (i : List Arrival) : Backed { resetBlock s with inbox := i } := Bool.noConfusion

theorem true_guards : Guards (fun _ => True) Backed where
  hears _ _ _ := hears_of_outside (fun _ _ _ _ => trivial) (fun s i _ => backed_reset s i) trivial
  moves _ _ _ _ _ _ := trivial
  count _ _ _ _ := trivial
  read _ _ _ _ _ := trivial
  write _ _ _ _ _ := trivial

theorem exec_backed {i : Instr} {s t : State} (hs : Backed s) (ht : exec i s = .next t) : Backed t := by
  have guarded : Guarded (fun _ => True) FamilyBacks False s := ⟨trivial, hs, False.elim⟩
  cases hop : i.opCode? with
  | none =>
    obtain ⟨u, hu, hg⟩ := exec_wireGuarded hop true_guards guarded
    obtain rfl : u = t := Host.Outcome.next.inj (hu.symm.trans ht)
    exact hg.elim Guarded.card id
  | some op =>
    obtain ⟨u, hu, hend⟩ := exec_guarded hop true_guards (p := False) fun _ _ => ⟨trivial, hs, False.elim⟩
    obtain rfl : u = t := Host.Outcome.next.inj (hu.symm.trans ht)
    cases hend with
    | ignored _ | refused _ _ _ => exact hs
    | ran _ _ hrun =>
      cases hrun with
      | ok hg _ | failed _ hg _ | stuck _ hg => exact hg.card
      | abandoned ha => exact ha

theorem step_backed {s t : State} (hs : Backed s) (ht : step s = .next t) : Backed t := by
  obtain ⟨i, u, hu, rfl | ⟨rest, rfl⟩⟩ | p | ⟨i, rfl⟩ := step_cases ht
  · exact exec_backed (show Backed { s with seq := .idle } from hs) hu
  · exact exec_backed (show Backed { s with inbox := rest } from hs) hu
  · have unch := p.unchanged (by decide)
    rw [Backed, unch.initOk (by decide), unch.family (by decide)]; exact hs
  · exact backed_reset s i

/-! ### A read of STATUS that lands meanwhile -/

/-- A 32-bit read of STATUS, `k` statements and events away. -/
def statusRead (k : Nat) : Arrival := ⟨k, .access ⟨0x04, 32, none⟩⟩

/-- A STATUS word with INIT_OK = 1 only with a family. -/
def GoodWord (w : Word) : Prop := w.getLsbD 3 = true → w.extractLsb' 4 3 ∈ [1#3, 2#3, 3#3, 4#3]

/-- The read is still to come, or it gave such a word. -/
def Listens (s : State) : Prop := (∃ k, s.inbox = [statusRead k]) ∨ s.inbox = [] ∧ GoodWord s.rdata

theorem goodWord_statusWord {s : State} (h : Backed s) : GoodWord (statusWord s) := by
  obtain ⟨-, -, hi, hf, -⟩ := statusWord_fields s
  rw [GoodWord, hi, hf, familyCode_mem]; exact h

/-- It lands before any statement or event, and gives the STATUS of that moment. -/
theorem listens_hears {s : State} (hl : Listens s) (hs : Backed s) : Hears Listens (fun _ => False) s := by
  obtain ⟨k, hk⟩ | ⟨hi, hg⟩ := hl
  · cases k with
    | zero =>
      refine .inl ⟨{ s with rdata := statusWord s, inbox := [] }, ?_, ?_, .inr ⟨rfl, goodWord_statusWord hs⟩⟩
      · rw [sync, hk]; rfl
      · exact .step .outside (by simp) (move_accessReg s ⟨0x04, 32, none⟩) (.one .outside (by simp) (move_inbox _ []))
    | succ k =>
      refine .inl ⟨{ s with inbox := [statusRead k] }, ?_, .one .outside (by simp) (move_inbox s _), .inl ⟨k, rfl⟩⟩
      rw [sync, hk]; rfl
  · refine .inl ⟨{ s with inbox := [] }, by rw [sync, hi]; rfl, .one .outside (by simp) (move_inbox s _), .inr ⟨rfl, hg⟩⟩

theorem Listens.kept {s t : State} (h : Listens s) (inbox : t.inbox = s.inbox) (rdata : t.rdata = s.rdata) : Listens t := by
  rw [Listens, inbox, rdata]; exact h

theorem Listens.move {l : Label} (ho : l ≠ .outside) (hr : l ≠ .reset) {s t : State} (m : Move l s t) (h : Listens s) : Listens t :=
  h.kept ((m.frame hr).2 ho) ((m.unchanged hr).regs (by simpa using ho.symm)).2.2.2

theorem listens_guards : Guards Listens fun _ => False where
  hears _ := listens_hears
  moves l hl _ _ m h := h.move (fun e => absurd hl (by rw [e]; decide)) (fun e => absurd hl (by rw [e]; decide)) m
  count _ _ _ h := h.kept rfl rfl
  read _ _ _ r h := h.move (by simp) (by simp) r.move
  write _ _ _ w h := h.move (by simp) (by simp) w.move

theorem exec_listens {i : Instr} {s t : State} {k : Nat} (hs : Backed s) (hk : s.inbox = [statusRead k]) (ht : exec i s = .next t) :
    Listens t := by
  have start : ∀ {u : State}, u.inbox = s.inbox → Listens u := fun h => .inl ⟨k, h.trans hk⟩
  cases hop : i.opCode? with
  | none =>
    obtain ⟨u, hu, hg⟩ := exec_wireGuarded hop listens_guards (p := False) ⟨start rfl, hs, False.elim⟩
    obtain rfl : u = t := Host.Outcome.next.inj (hu.symm.trans ht)
    exact hg.elim Guarded.holds False.elim
  | some op =>
    obtain ⟨u, hu, hend⟩ := exec_guarded hop listens_guards (p := False) fun _ _ => ⟨start rfl, hs, False.elim⟩
    obtain rfl : u = t := Host.Outcome.next.inj (hu.symm.trans ht)
    cases hend with
    | ignored _ | refused _ _ _ => exact start rfl
    | ran _ _ hrun =>
      cases hrun with
      | ok hg _ | failed _ hg _ => exact hg.holds.kept rfl rfl
      | stuck _ hg => exact hg.holds
      | abandoned ha => exact ha.elim

/-- Settles O57. -/
theorem familyKnown : Obligations.FamilyKnown := by
  refine ⟨Bool.noConfusion, fun s t hs ht => ?_, fun i s t k hs hk ht hi => ?_⟩
  · rw [backed_iff] at hs ⊢; exact step_backed hs ht
  · obtain ⟨j, hj⟩ | ⟨-, hg⟩ := exec_listens ((backed_iff s).1 hs) hk ht
    · rw [hi] at hj; cases hj
    · exact hg

end Sys2Proof.Machine
end

section
/-! SUPPORT. The frame of an instruction when no reset arrives, whatever else does and whatever the card answers: only the kinds of
change of its rule, and what the requester itself writes; and INFO's two registers (10_state.md R26, R27, R31, R32). -/
namespace Sys2Proof.Machine

variable {L : List Label} {W : Nat → Prop} {P : State → Prop} {A : State → Prop}

theorem Holds.mono {F : State → Prop} {K : List Label} (k : Holds K W F A) (hL : L ⊆ K) : Holds L W F A :=
  ⟨k.hears, fun l hl => k.moves l (hL hl), k.count, fun h => k.read (hL h), fun h => k.write (hL h)⟩

theorem unchanged_count (s : State) (a b : Nat) : Unchanged L s { s with tries := a, byteIdx := b } := by
  constructor
  · exact ⟨rfl, rfl, rfl, rfl, rfl, rfl⟩
  all_goals simp

/-- What changes of the kinds in `L` and of the outside keep, a piece keeps while no reset arrives. -/
theorem noReset_holds (hP : ∀ s t, Unchanged (.outside :: L) s t → P s → P t) :
    Holds L W (fun t => NoReset t ∧ P t) fun _ => False := by
  have own : ∀ {l : Label}, l ∈ .outside :: L → l ≠ .reset → l ≠ .outside → ∀ {s t}, Move l s t → NoReset s ∧ P s → NoReset t ∧ P t :=
    fun hl hr ho s t m h => ⟨by rw [NoReset, (m.frame hr).2 ho]; exact h.1, hP s t ((m.unchanged hr).mono (by simpa using hl)) h.2⟩
  refine ⟨fun s h => ?_, fun l hl hq s t m h => ?_, fun s a b h => ⟨h.1, hP s _ (unchanged_count s a b) h.2⟩,
    fun hl a s t r h => own (by simp [hl]) (by simp) (by simp) r.move h,
    fun hl a _ s t w h => own (by simp [hl]) (by simp) (by simp) w.move h⟩
  · obtain ⟨t, ht, hn, p⟩ := sync_noReset h.1
    exact .inl ⟨t, ht, p, hn, hP s t ((p.unchanged (by decide)).mono (by simp)) h.2⟩
  · exact own (by simp [hl]) (fun e => absurd hq (by rw [e]; decide)) (fun e => absurd hq (by rw [e]; decide)) m h

/-- How a request changes the state when no reset arrives: by the kinds of change of its rule, of the epilogue and of the outside. -/
theorem exec_unchanged {i : Instr} {op : BitVec 4} (h : i.opCode? = some op) {s : State} (hn : NoReset s) :
    ∃ t, exec i s = .next t ∧ (t = s ∨ (∃ c : Cause, t = complete c.outcome (latch op s)) ∨
      ∃ u, Unchanged (.outside :: (labelsOf i ++ epilogueLabels)) (started op s) u ∧ (t = u ∨ ∃ o, t = complete o u)) := by
  have k : Holds (labelsOf i ++ epilogueLabels) (StoredBy i s)
      (fun t => NoReset t ∧ Unchanged (.outside :: (labelsOf i ++ epilogueLabels)) (started op s) t) fun _ => False :=
    noReset_holds fun _ _ u h => h.trans u
  obtain ⟨t, ht, hend⟩ := exec_ended h (k.mono (by simp)) (k.mono (by simp)).finishes
    fun _ _ => ⟨hn, .refl _ _⟩
  refine ⟨t, ht, ?_⟩
  cases hend with
  | ignored _ => exact .inl rfl
  | refused c _ _ => exact .inr (.inl ⟨c, rfl⟩)
  | ran _ _ hrun =>
    cases hrun with
    | ok hg _ | failed _ hg _ => exact .inr (.inr ⟨_, hg.2, .inr ⟨_, rfl⟩⟩)
    | stuck _ hg => exact .inr (.inr ⟨_, hg.2, .inl rfl⟩)
    | abandoned ha => exact ha.elim

/-- A wire row likewise. -/
theorem exec_wireUnchanged {i : Instr} (h : i.opCode? = none) {s : State} (hn : NoReset s) :
    ∃ t, exec i s = .next t ∧ Unchanged (.outside :: labelsOf i) s t := by
  obtain ⟨t, ht, hg | ha⟩ := exec_wireLeaves h (noReset_holds (P := Unchanged (.outside :: labelsOf i) s) fun _ _ u h => h.trans u)
    ⟨hn, .refl _ _⟩
  · exact ⟨t, ht, hg.2⟩
  · exact ha.elim

/-- Settles O52: FAMILY and INIT_OK are among no other instruction's kinds of change. -/
theorem familyWriters : Obligations.FamilyWriters := by
  intro i s t hn ht
  cases hop : i.opCode? with
  | none =>
    obtain ⟨u, hu, h⟩ := exec_wireUnchanged hop hn
    obtain rfl : u = t := Host.Outcome.next.inj (hu.symm.trans ht)
    exact ⟨fun hi => h.family (by simp [labelsOf_family hi]), fun hi hd => h.initOk (by simp [labelsOf_card hi hd])⟩
  | some op =>
    obtain ⟨u, hu, h⟩ := exec_unchanged hop hn
    obtain rfl : u = t := Host.Outcome.next.inj (hu.symm.trans ht)
    obtain rfl | ⟨c, rfl⟩ | ⟨v, h, rfl | ⟨o, rfl⟩⟩ := h
    · exact ⟨fun _ => rfl, fun _ _ => rfl⟩
    · exact ⟨fun _ => rfl, fun _ _ => rfl⟩
    all_goals exact ⟨fun hi => h.family (by simp [labelsOf_family hi, epilogueLabels]),
      fun hi hd => h.initOk (by simp [labelsOf_card hi hd, epilogueLabels])⟩

/-! ### INFO -/

theorem labelsOf_capacity {i : Instr} (hi : i ≠ .info) : Label.capkb ∉ labelsOf i ∧ Label.blksize ∉ labelsOf i := by
  cases i
  case info => exact absurd rfl hi
  all_goals simp [labelsOf, lineLabels]

/-- CAPKB and BLKSIZE as they were in `s`. -/
def SameCapacity (s t : State) : Prop := t.capkb = s.capkb ∧ t.blksize = s.blksize

/-- CAPKB and BLKSIZE as an INFO that completes OK leaves them. -/
def Reported (t : State) : Prop := t.capkb = capacityKB t.csdShadow ∧ t.blksize = 0x00000200#32

theorem sameCapacity_holds (hL : .capkb ∉ L ∧ .blksize ∉ L) (s : State) :
    Holds L W (fun t => NoReset t ∧ SameCapacity s t) fun _ => False :=
  noReset_holds fun _ _ u h => ⟨(u.capkb (by simp [hL.1])).trans h.1, (u.blksize (by simp [hL.2])).trans h.2⟩

theorem reported_holds (hL : .capkb ∉ L ∧ .blksize ∉ L ∧ .csd ∉ L) : Holds L W (fun t => NoReset t ∧ Reported t) fun _ => False :=
  noReset_holds fun _ _ u h => by
    obtain ⟨h1, h2⟩ := h
    rw [Reported, u.capkb (by simp [hL.1]), u.csdShadow (by simp [hL.2.2]), u.blksize (by simp [hL.2.1])]
    exact ⟨h1, h2⟩

/-- INFO's last statements always set both. -/
theorem infoSets_passes {s : State} (hs : NoReset s) : Passes (fun t => NoReset t ∧ Reported t) (fun _ => False) infoSets s := by
  have derived : Holds [.seq] (fun _ => True) (fun t => NoReset t ∧ t.capkb = capacityKB t.csdShadow) fun _ => False :=
    noReset_holds fun _ _ u h => by rw [u.capkb (by decide), u.csdShadow (by decide)]; exact h
  have free : Holds [.seq] (fun _ => True) (fun t => NoReset t ∧ True) fun _ => False := noReset_holds fun _ _ _ => id
  have done : Holds [.seq] (fun _ => True) (fun t => NoReset t ∧ Reported t) fun _ => False := reported_holds (by decide)
  refine (at_passes free (by decide) (.body 22 1) ⟨hs, trivial⟩).bind fun _ t ht => ?_
  have capkb : Passes (fun t => NoReset t ∧ t.capkb = capacityKB t.csdShadow) (fun _ => False) setCapkb t :=
    .inl ⟨_, _, rfl, ht.1.1, rfl⟩
  refine capkb.bind fun _ u hu => (at_passes derived (by decide) (.body 23 1) hu).bind fun _ v hv => ?_
  have blksize : Passes (fun t => NoReset t ∧ Reported t) (fun _ => False) setBlksize v := .inl ⟨_, _, rfl, hv.1.1, hv.1.2, rfl⟩
  refine blksize.bind fun _ w hw => ?_
  obtain ⟨a, x, e, hx⟩ | h := at_passes done (by decide) (.body 24 1) hw
  · exact .inl ⟨a, x, e, hx.1⟩
  · exact .inr h

/-- INFO sets both, or fails with both as they were (R200, R202). -/
theorem exec_info_ended {s : State} (hn : NoReset s) : Ended 0x9#4 (labelsOf .info) (fun t => NoReset t ∧ Reported t)
    (fun t => NoReset t ∧ SameCapacity s t) (fun _ => False) s (start 0x9#4 bodyInfo s) := by
  refine start_ended fun _ _ => run_ends (G := fun t => NoReset t ∧ Reported t) ?_ (reported_holds (W := fun _ => True) (by decide)).finishes
    (sameCapacity_holds (W := fun _ => True) (by decide) s).finishes
  have reads : Built (fun t => t.lBuf.toNat = s.bufbase.toNat) infoReadLabels (fun _ => True) (line 1 >>= fun _ => infoReads) :=
    (line_built (by decide) 1).bind fun _ =>
      infoReads_built (fun _ h => h) (by decide) (fun _ _ => trivial) fun _ _ _ _ _ _ => trivial
  have keeps : Holds infoReadLabels (fun _ => True) (fun t => NoReset t ∧ SameCapacity s t ∧ t.lBuf = s.bufbase) fun _ => False :=
    noReset_holds fun _ _ u ⟨⟨h1, h2⟩, h3⟩ =>
      ⟨⟨(u.capkb (by decide)).trans h1, (u.blksize (by decide)).trans h2⟩, u.lBuf.trans h3⟩
  have hr := reads.leaves keeps (fun t ht => by rw [ht.2.2]) (started 0x9#4 s) ⟨hn, ⟨rfl, rfl⟩, rfl⟩
  rw [bodyInfo_eq, ← bind_assoc]
  exact (hr.mono (by decide) (fun _ => And.left) (fun _ h => ⟨h.1, h.2.1⟩) fun _ => id).bind fun _ t ht => (infoSets_passes ht).leaves

/-- Settles O37: no other instruction's kinds of change are those of CAPKB and BLKSIZE. -/
theorem onlyInfoSetsCapacity : Obligations.OnlyInfoSetsCapacity := by
  intro i s t hn ht
  by_cases hi : i = .info
  · subst hi
    obtain rfl : start 0x9#4 bodyInfo s = t := Host.Outcome.next.inj ht
    have hend := exec_info_ended hn
    generalize start 0x9#4 bodyInfo s = t at hend
    cases hend with
    | ignored _ | refused _ _ _ => exact .inl ⟨rfl, rfl⟩
    | ran _ _ hrun =>
      cases hrun with
      | ok hg _ => exact .inr ⟨rfl, rfl, rfl, rfl, hg.2⟩
      | failed _ hg _ | stuck _ hg => exact .inl hg.2
      | abandoned ha => exact ha.elim
  · refine .inl ?_
    obtain ⟨hc, hb⟩ := labelsOf_capacity hi
    cases hop : i.opCode? with
    | none =>
      obtain ⟨u, hu, h⟩ := exec_wireUnchanged hop hn
      obtain rfl : u = t := Host.Outcome.next.inj (hu.symm.trans ht)
      exact ⟨h.capkb (by simp [hc]), h.blksize (by simp [hb])⟩
    | some op =>
      obtain ⟨u, hu, h⟩ := exec_unchanged hop hn
      obtain rfl : u = t := Host.Outcome.next.inj (hu.symm.trans ht)
      obtain rfl | ⟨c, rfl⟩ | ⟨v, h, rfl | ⟨o, rfl⟩⟩ := h
      · exact ⟨rfl, rfl⟩
      · exact ⟨rfl, rfl⟩
      all_goals exact ⟨h.capkb (by simp [hc, epilogueLabels]), h.blksize (by simp [hb, epilogueLabels])⟩

end Sys2Proof.Machine
end

section
/-! SUPPORT. The frame of a request when nothing arrives from outside, whatever the card answers (10_state.md R31 to R40, 20_memory.md
R51 to R54): only the kinds of change of its rule, and only the buffer bytes its rule stores to; and so INIT's two outcomes. -/
namespace Sys2Proof.Machine

/-- A byte written at one address leaves every other as it was, whatever the memory. -/
theorem memGet_memPut_ne (m : List Host.Cell) {a b : Nat} (h : b ≠ a) (v : Byte) : memGet (memPut m a v) b = memGet m b := by
  have cons : ∀ m, memGet (memCons a v m) b = memGet m b := fun m => by
    unfold memCons
    split
    · rfl
    · rw [memGet, if_neg h]
  induction m with
  | nil => exact cons []
  | cons c m ih =>
    obtain ⟨x, w⟩ := c
    unfold memPut
    split
    · exact cons _
    · split
      · rename_i hx; rw [cons, memGet, if_neg (hx ▸ h)]
      · rw [memGet, memGet, ih]

variable {L : List Label} {W : Nat → Prop}

/-- `t` is a later state of the run `s` started, with nothing to arrive: no byte has raced, no choice is taken, only changes of kinds
in `L` were made, and only bytes at addresses of `W` stored. -/
structure Calm (L : List Label) (W : Nat → Prop) (s t : State) : Prop extends Unchanged L s t where
  quiet : Quiet t
  reqOld : t.reqOld = []
  picks : t.picks = s.picks ∧ t.pickCount = s.pickCount
  bytes : ∀ b, (∀ a, W a → b ≠ bufAddr s a) → memGet t.mem b = memGet s.mem b

/-- A move of the sequencer that is no buffer access takes no choice and races no byte. -/
theorem Move.calm {l : Label} (hl : l ∈ quietLabels ++ busLabels) {s t : State} (h : Move l s t) :
    t.reqOld = s.reqOld ∧ t.picks = s.picks ∧ t.pickCount = s.pickCount := by
  cases l
  case memRead | memWrite | outside | reset => exact absurd hl (by decide)
  case select | deselect | capkb | blksize => obtain rfl := h; simp
  case seq | lastR1 | dresp | csd | family | initOk => obtain ⟨_, rfl⟩ := h; simp
  case ext => obtain ⟨_, _, rfl⟩ := h; simp
  case exchange | pin => obtain ⟨_, _, _, rfl⟩ := h; simp
  case counters => obtain ⟨_, _, _, _, rfl⟩ := h; simp

/-- When nothing arrives, a piece keeps its frame. -/
theorem calm_holds (s : State) : Holds L W (Calm L W s) fun _ => False where
  hears t h := .inl ⟨t, sync_quiet h.quiet, .refl t, h⟩
  moves l hl hq t u m h := by
    have hr : l ≠ .reset := fun e => absurd hq (by rw [e]; decide)
    have ho : l ≠ .outside := fun e => absurd hq (by rw [e]; decide)
    have hw : l ≠ .memWrite := fun e => absurd hq (by rw [e]; decide)
    obtain ⟨e1, e2, e3⟩ := m.calm hq
    have unch := m.unchanged hr
    refine ⟨h.toUnchanged.trans (unch.mono (by simpa using hl)), ((m.frame hr).2 ho).trans h.quiet, e1.trans h.reqOld,
      ⟨e2.trans h.picks.1, e3.trans h.picks.2⟩, fun b hb => ?_⟩
    rw [unch.mem (by simpa using ho.symm) (by simpa using hw.symm)]
    exact h.bytes b hb
  count t a b h := ⟨h.toUnchanged.trans (unchanged_count t a b), h.quiet, h.reqOld, h.picks, h.bytes⟩
  read hm a t u r h := by
    have unch := h.toUnchanged.trans ((r.move.unchanged (by simp)).mono (by simpa using hm))
    obtain ⟨v, p, n, rfl, hp⟩ := r
    obtain ⟨rfl, rfl⟩ := hp (by rw [h.reqOld]; rfl)
    exact ⟨unch, h.quiet, h.reqOld, h.picks, h.bytes⟩
  write hm a ha t u w h := by
    have unch := h.toUnchanged.trans ((w.move.unchanged (by simp)).mono (by simpa using hm))
    obtain ⟨v, x, w, p, n, o, rfl, ⟨-, -, rfl, rfl, rfl⟩ | ⟨hne, -⟩⟩ := w
    · refine ⟨unch, h.quiet, h.reqOld, h.picks, fun b hb => ?_⟩
      have hcfg : bufAddr t a = bufAddr s a := by rw [bufAddr, bufAddr, h.cfg]
      rw [show memGet (memPut t.mem (bufAddr t a) w) b = memGet t.mem b from memGet_memPut_ne _ (hcfg ▸ hb a ha) w]
      exact h.bytes b hb
    · exact absurd (by rw [h.reqOld]; rfl) hne

/-- How a request ends when nothing arrives: ignored; or at the end of its frame, or completed there. -/
theorem exec_calm {i : Instr} {op : BitVec 4} (h : i.opCode? = some op) {s : State} (q : Quiet s) (hL : labelsOf i ⊆ L)
    (hf : Finishes (Calm L (StoredBy i s) (started op s)) fun _ => False) :
    ∃ t, exec i s = .next t ∧ (t = s ∨ ∃ u, Calm L (StoredBy i s) (started op s) u ∧ (t = u ∨ ∃ o, t = complete o u)) := by
  have h₀ : Calm L (StoredBy i s) (started op s) (started op s) := ⟨.refl _ _, q, rfl, ⟨rfl, rfl⟩, fun _ _ => rfl⟩
  obtain ⟨t, ht, hend⟩ := exec_ended h ((calm_holds _).mono hL) hf fun _ _ => h₀
  refine ⟨t, ht, ?_⟩
  cases hend with
  | ignored _ => exact .inl rfl
  | refused c _ _ => exact .inr ⟨started op s, h₀, .inr ⟨c.outcome, rfl⟩⟩
  | ran _ _ hrun =>
    cases hrun with
    | ok hg _ | failed _ hg _ => exact .inr ⟨_, hg, .inr ⟨_, rfl⟩⟩
    | stuck _ hg => exact .inr ⟨_, hg, .inl rfl⟩
    | abandoned ha => exact ha.elim

/-- Which operations make which kinds of change. -/
theorem labelsOf_owner {i : Instr} {op : BitVec 4} (h : i.opCode? = some op) : Label.outside ∉ labelsOf i ∧ (i ≠ .detect → Label.pin ∉ labelsOf i) ∧
    (i ≠ .init → Label.family ∉ labelsOf i ∧ Label.ext ∉ labelsOf i) ∧ (i ≠ .init → i ≠ .deinit → Label.initOk ∉ labelsOf i) ∧
    (i ≠ .wr1 → i ≠ .wrn → Label.dresp ∉ labelsOf i) ∧
    (i ≠ .info → Label.csd ∉ labelsOf i ∧ Label.capkb ∉ labelsOf i ∧ Label.blksize ∉ labelsOf i) ∧
    (i ≠ .rdn → i ≠ .wrn → Label.counters ∉ labelsOf i) := by
  cases i <;> simp only [Instr.opCode?, reduceCtorEq] at h <;> simp [labelsOf, lineLabels]

/-- A request with no first command is a start of a reserved code, of DETECT, of INIT or of DEINIT. -/
theorem labelsOf_idle {i : Instr} {op : BitVec 4} {s : State} (h : i.opCode? = some op) (hi : i ≠ .init)
    (hc : firstCommand s i = none) : labelsOf i ⊆ [.seq, .pin, .initOk] := by
  cases i <;> simp only [Instr.opCode?, firstCommand, reduceCtorEq] at h hc <;> simp_all [labelsOf]

/-- Where the card is not selected, such a request makes no exchange. -/
theorem exec_idle {i : Instr} {op : BitVec 4} {s t : State} (h : i.opCode? = some op) (q : Quiet s) (hcs : s.busy = false → s.cs = false)
    (hi : i ≠ .init) (hc : firstCommand s i = none) (ht : exec i s = .next t) :
    t.lastR1 = s.lastR1 ∧ t.card = s.card ∧ t.xchgs = s.xchgs := by
  cases hb : s.busy with
  | true =>
    obtain ⟨body, he, -⟩ := exec_program h
    rw [he, start_busy hb] at ht
    obtain rfl := Host.Outcome.next.inj ht
    exact ⟨rfl, rfl, rfl⟩
  | false =>
    have idle : ∀ u, Calm [.seq, .pin, .initOk] (StoredBy i s) (started op s) u → u.cs = false :=
      fun u hu => (hu.cs (by decide) (by decide)).trans (hcs hb)
    obtain ⟨u, hu, he⟩ := exec_calm h q (labelsOf_idle h hi hc) ((calm_holds _).finishes_unselected (by decide) idle)
    obtain rfl : u = t := Host.Outcome.next.inj (hu.symm.trans ht)
    obtain rfl | ⟨v, hv, rfl | ⟨o, rfl⟩⟩ := he
    · exact ⟨rfl, rfl, rfl⟩
    all_goals exact ⟨hv.lastR1 (by decide), hv.bus (by decide)⟩

/-- Settles O51: what its rule does not name is written by none of the kinds of change of an operation. -/
theorem requestFrame : Obligations.RequestFrame := by
  intro i op s t hop q hcs ht
  obtain ⟨ho, hdetect, hinit, hok, hwrite, hinfo, hsector⟩ := labelsOf_owner hop
  obtain ⟨u, hu, he⟩ := exec_calm (L := labelsOf i ++ epilogueLabels) hop q (by simp) ((calm_holds _).mono (by simp)).finishes
  obtain rfl : u = t := Host.Outcome.next.inj (hu.symm.trans ht)
  have bus := fun hi hc => exec_idle hop q hcs hi hc ht
  obtain rfl | ⟨v, hv, hvt⟩ := he
  · refine ⟨⟨rfl, rfl, rfl, rfl, rfl, q, rfl, rfl⟩, ?_, ?_, ?_, ?_, ?_, ?_, bus, fun _ _ => rfl⟩ <;> intros <;> simp
  · have out : ∀ {l : Label}, l ∉ labelsOf i → l ∉ epilogueLabels → l ∉ labelsOf i ++ epilogueLabels := fun h h' => by simp [h, h']
    obtain ⟨ha, hb, hc, hd⟩ := hv.regs (out ho (by decide))
    have bytes : ∀ a, ¬ InBuffer s.cfg.bufAddrWidth s.bufbase.toNat (storeLength s i) a → memGet v.mem a = memGet s.mem a :=
      fun a hn => hv.bytes a fun x ⟨j, hj, hx⟩ hax => hn ⟨j, hj, by rw [hax, hx]; rfl⟩
    obtain rfl | ⟨o, rfl⟩ := hvt
    all_goals exact ⟨⟨ha, hb, hc, hv.cfg, hd, hv.quiet, hv.picks⟩, fun h => hv.present (out (hdetect h) (by decide)),
      fun h => ⟨hv.family (out (hinit h).1 (by decide)), hv.ext (out (hinit h).2 (by decide))⟩,
      fun h h' => hv.initOk (out (hok h h') (by decide)), fun h h' => hv.lastDresp (out (hwrite h h') (by decide)),
      fun h => ⟨hv.csdShadow (out (hinfo h).1 (by decide)), hv.capkb (out (hinfo h).2.1 (by decide)),
        hv.blksize (out (hinfo h).2.2 (by decide))⟩,
      fun h h' => hv.counters (out (hsector h h') (by decide)), bus, bytes⟩

end Sys2Proof.Machine
end

section
/-! SUPPORT. INIT's two outcomes when nothing arrives from outside (42_initialization.md R142, R144). -/
namespace Sys2Proof.Machine

/-- When nothing arrives, every change of the sequencer keeps it so. -/
theorem quiet_guards : Guards Quiet fun _ => False where
  hears s q _ := .inl ⟨s, sync_quiet q, .refl s, q⟩
  moves l hl _ _ m q := ((m.frame fun e => absurd hl (by rw [e]; decide)).2 fun e => absurd hl (by rw [e]; decide)).trans q
  count _ _ _ q := q
  read _ _ _ r q := ((r.move.frame (by simp)).2 (by simp)).trans q
  write _ _ _ w q := ((w.move.frame (by simp)).2 (by simp)).trans q

theorem initAt_quiet {s : State} (q : Quiet s) (st : InitState) (n k : Nat) :
    initAt st n k s = .ok () { s with seq := .init st n k } := at_quiet q _

/-- INIT_OK is cleared before it is of any effect. -/
theorem bodyInit_cleared {s : State} (q : Quiet s) : bodyInit s = bodyInit { s with initOk := false } := by
  have rest : ∀ u : State, initRest u = initRest { u with initOk := false } := fun u => by
    rw [initRest]; rfl
  rw [bodyInit_eq, blk_bind_ok (initAt_quiet q _ _ _), blk_bind_ok (initAt_quiet (s := { s with initOk := false }) q _ _ _), rest]

/-- INIT with nothing arriving ends OK with INIT_OK = 1 and a family, or FAIL with INIT_OK = 0. -/
theorem exec_init_outcomes {s : State} (q : Quiet s) (hb : s.busy = false) :
    ∃ t, exec .init s = .next t ∧ t.busy = false ∧ t.done = true ∧
      ((t.result = .ok ∧ t.initOk = true ∧ t.family ≠ .none) ∨ (t.result = .fail ∧ t.initOk = false)) := by
  refine ⟨run bodyInit (started 0x2#4 s), congrArg _ (start_runs hb bodyInit (preCheck_always (.inr (.inl rfl)) _)), ?_⟩
  have leaves := bodyInit_leads quiet_guards (p := False) { started 0x2#4 s with initOk := false } ⟨q, Bool.noConfusion, False.elim⟩
  rw [← bodyInit_cleared (s := started 0x2#4 s) q] at leaves
  have ends := run_ends leaves (quiet_guards.finishes fun _ _ h _ => h.2) (quiet_guards.finishes fun b f h e => by rw [h] at e; cases e)
  generalize run bodyInit (started 0x2#4 s) = t at ends
  cases ends with
  | ok hg _ => exact ⟨rfl, rfl, .inl ⟨rfl, hg.card⟩⟩
  | failed hc hg _ => exact ⟨rfl, rfl, .inr ⟨hc.resolve_right (by decide), hg.card⟩⟩
  | stuck hm _ => exact absurd hm (by decide)
  | abandoned ha => exact ha.elim

/-- Settles O22. -/
theorem initOutcomes : Obligations.InitOutcomes := by
  intro s q hb
  obtain ⟨t, ht, hbusy, hdone, hout⟩ := exec_init_outcomes q hb
  obtain ⟨u, hu, he⟩ := exec_calm (i := .init) (L := labelsOf .init ++ epilogueLabels) rfl q (by decide)
    ((calm_holds _).mono (by decide)).finishes
  obtain rfl : u = t := Host.Outcome.next.inj (hu.symm.trans ht)
  refine ⟨u, ht, hbusy, hdone, hout, ?_⟩
  obtain rfl | ⟨v, hv, rfl | ⟨o, rfl⟩⟩ := he
  · exact ⟨rfl, rfl, rfl, rfl⟩
  all_goals exact ⟨hv.mem (by decide) (by decide), hv.capkb (by decide), hv.blksize (by decide), (hv.present (by decide)).1⟩

end Sys2Proof.Machine
end

section
/-! SUPPORT. How far a run has come when nothing arrives from outside: the card's bytes and the events of it so far, and the fields it has
written. Each primitive takes one such record to the next, so that a whole run is a chain of them. -/
namespace Sys2Proof.Machine

/-- What a run has done so far. -/
structure Progress where
  bytes : List Byte
  events : List Event
  cs : Bool
  seq : Seq
  family : Family
  lastR1 : Byte
  ext : Vector Byte 4
  ext32 : Word
  csdShadow : Vector Byte 16
  tries : Nat
  byteIdx : Nat
  mem : List Host.Cell
  blkOld : List Host.Cell

namespace Progress

/-- The state of a run from `s` that has come so far. -/
def state (s : State) (k : Progress) : State :=
  { s with
    card := s.card.drop k.bytes.length, trace := k.events.reverse ++ s.trace, xchgs := s.xchgs + k.bytes.length, cs := k.cs,
    seq := k.seq, family := k.family, lastR1 := k.lastR1, ext := k.ext, ext32 := k.ext32, csdShadow := k.csdShadow,
    tries := k.tries, byteIdx := k.byteIdx, mem := k.mem, blkOld := k.blkOld }

/-- Nothing yet. -/
def fresh (s : State) : Progress where
  bytes := []
  events := []
  cs := s.cs
  seq := s.seq
  family := s.family
  lastR1 := s.lastR1
  ext := s.ext
  ext32 := s.ext32
  csdShadow := s.csdShadow
  tries := s.tries
  byteIdx := s.byteIdx
  mem := s.mem
  blkOld := s.blkOld

/-- The card answers `l` more, with these events. -/
def hear (k : Progress) (l : List Byte) (evs : List Event) : Progress := { k with bytes := k.bytes ++ l, events := k.events ++ evs }

/-- The sequencer stands at this point. -/
def goTo (k : Progress) (p : Seq) : Progress := { k with seq := p }

/-- The card is selected (R100). -/
def select (k : Progress) : Progress := { k.hear [] selectEvents with cs := true }

/-- A command with this reply (R102). -/
def command (s : State) (k : Progress) (idx : Byte) (arg : Word) (crc r : Byte) (l : List Byte) : Progress :=
  { k.hear l (commandEvents idx arg crc l) with
    lastR1 := r, tries := s.cfg.cmdRespTries - (l.length - (if idx = 12#8 then 7 else 6)) }

/-- An extended response (R105). -/
def readExt (k : Progress) (e : Vector Byte 4) : Progress :=
  { k.hear e.toList (pollEvents e.toList) with ext := e, ext32 := e[0] ++ e[1] ++ e[2] ++ e[3] }

/-- A wait with this bound (R120). -/
def wait (k : Progress) (bound : Nat) (l : List Byte) : Progress := { k.hear l (pollEvents l) with tries := bound - l.length }

/-- A block received to `dest`; `old` is what it overwrote (R125). -/
def block (s : State) (k : Progress) (dest : Nat) (b : BlockIn) (old : List Host.Cell) : Progress :=
  { k.hear b.bytes (b.events s.cfg.bufAddrWidth dest) with
    tries := s.cfg.tokenWaitTries - b.wait.length, byteIdx := b.payload.length - 1,
    mem := storeBytes s.cfg.bufAddrWidth dest b.payload k.mem, blkOld := old }

/-- CSD_SHADOW is filled (R40). -/
def keepCsd (k : Progress) (csd : Vector Byte 16) : Progress := { k with csdShadow := csd }

/-- The card is released, and answers the trailing byte (R101). -/
def release (k : Progress) (trail : Byte) : Progress := { k.hear [trail] (releaseEvents trail) with cs := false }

section
variable (s : State) (k : Progress)
@[simp] theorem fresh_bytes : (fresh s).bytes = [] := rfl
@[simp] theorem hear_bytes (l : List Byte) (evs : List Event) : (k.hear l evs).bytes = k.bytes ++ l := rfl
@[simp] theorem goTo_bytes (p : Seq) : (k.goTo p).bytes = k.bytes := rfl
@[simp] theorem select_bytes : k.select.bytes = k.bytes := List.append_nil _
@[simp] theorem command_bytes (idx : Byte) (arg : Word) (crc r : Byte) (l : List Byte) :
    (k.command s idx arg crc r l).bytes = k.bytes ++ l := rfl
@[simp] theorem readExt_bytes (e : Vector Byte 4) : (k.readExt e).bytes = k.bytes ++ e.toList := rfl
@[simp] theorem wait_bytes (bound : Nat) (l : List Byte) : (k.wait bound l).bytes = k.bytes ++ l := rfl
@[simp] theorem block_bytes (dest : Nat) (b : BlockIn) (old : List Host.Cell) : (k.block s dest b old).bytes = k.bytes ++ b.bytes := rfl
@[simp] theorem keepCsd_bytes (csd : Vector Byte 16) : (k.keepCsd csd).bytes = k.bytes := rfl
end

theorem state_fresh (s : State) : (fresh s).state s = s := by cases s; rfl

variable {s : State} {k : Progress}

@[simp] theorem state_inbox : (k.state s).inbox = s.inbox := rfl
@[simp] theorem state_cfg : (k.state s).cfg = s.cfg := rfl
@[simp] theorem state_family : (k.state s).family = k.family := rfl
@[simp] theorem state_cs : (k.state s).cs = k.cs := rfl
@[simp] theorem state_card : (k.state s).card = s.card.drop k.bytes.length := rfl

/-- The card's stream where the run stands. -/
theorem card_eq {l rest : List Byte} (hc : s.card = k.bytes ++ (l ++ rest)) : (k.state s).card = l ++ rest := by simp [hc]

theorem heard_state (l : List Byte) (outs : List Byte) : heard (k.state s) outs l = (k.hear l (xchgEvents outs l)).state s := by
  simp [heard, state, hear, List.drop_drop, Nat.add_assoc]

theorem at_state (q : Quiet s) (p : Seq) : at_ p (k.state s) = .ok () ((k.goTo p).state s) := at_quiet (s := k.state s) q p

theorem select_state (q : Quiet s) : Machine.select (k.state s) = .ok () (k.select.state s) := by
  rw [select_quiet (s := k.state s) q]
  simp [state, select, hear, selectEvents]

theorem fillers_state (q : Quiet s) {n : Nat} {l rest : List Byte} (hc : s.card = k.bytes ++ (l ++ rest)) (hl : l.length = n) :
    fillers n (k.state s) = .ok () ((k.hear l (pollEvents l)).state s) := by
  rw [fillers_quiet (s := k.state s) q (card_eq hc) hl, heard_state, pollEvents, hl]

theorem command_state (q : Quiet s) {idx : Byte} {arg : Word} {crc r : Byte} {l rest : List Byte} (hl : CommandReply s idx r l)
    (hc : s.card = k.bytes ++ (l ++ rest)) :
    sendCommand idx arg crc (k.state s) = .ok r ((k.command s idx arg crc r l).state s) := by
  rw [sendCommand_quiet (s := k.state s) q hl (card_eq hc), answered, heard_state]
  rfl

theorem ext_state (q : Quiet s) {e : Vector Byte 4} {rest : List Byte} (hc : s.card = k.bytes ++ (e.toList ++ rest)) :
    getExtendedResponse (k.state s) = .ok (e[0] ++ e[1] ++ e[2] ++ e[3])
      ((k.readExt e).state s) := by
  obtain ⟨⟨l⟩, hl⟩ := e
  match l, hl with
  | [b0, b1, b2, b3], _ =>
    rw [getExtendedResponse_quiet (s := k.state s) q (card_eq hc), heard_state]
    rfl

theorem polled_state (bound : Nat) (l : List Byte) : polled (k.state s) bound l = (k.wait bound l).state s := by
  rw [polled, heard_state]; rfl

theorem ready_state (q : Quiet s) (n : Nat) {w rest : List Byte} (hw : IdleReply s w) (hc : s.card = k.bytes ++ (w ++ rest)) :
    require n .readyTimeout waitIdle (k.state s) = .ok () (((k.wait s.cfg.idleWaitTries w).goTo (.body n 1)).state s) := by
  have hr := waitIdle_quiet (s := (k.goTo (.body n 1)).state s) q hw (card_eq hc)
  rw [require_ok (s := k.state s) q n _ hr, polled_state]
  rfl

theorem accept_state (q : Quiet s) (n : Nat) {idx : Byte} {arg : Word} {l rest : List Byte} (hl : CommandReply s idx 0x00#8 l)
    (hc : s.card = k.bytes ++ (l ++ rest)) :
    require n .cmdRejected (isAccepted (sendCommand idx arg 0x00#8)) (k.state s) =
      .ok () (((k.command s idx arg 0x00#8 0x00#8 l).goTo (.body n 1)).state s) := by
  have hr := isAccepted_quiet (s := (k.goTo (.body n 1)).state s) q (arg := arg) (crc := 0x00#8) hl (card_eq hc)
  rw [require_ok (s := k.state s) q n _ hr, answered, heard_state]
  rfl

theorem app_state (q : Quiet s) (n : Nat) {idx : Byte} {arg : Word} {l1 l2 rest : List Byte} (h1 : CommandReply s 55#8 0x00#8 l1)
    (h2 : CommandReply s idx 0x00#8 l2) (hc : s.card = k.bytes ++ (l1 ++ (l2 ++ rest))) :
    require n .cmdRejected (appCommand idx arg) (k.state s) =
      .ok () ((((k.command s 55#8 0x00000000#32 0x00#8 0x00#8 l1).command s idx arg 0x00#8 0x00#8 l2).goTo (.body n 1)).state s) := by
  have hr := appCommand_quiet (s := (k.goTo (.body n 1)).state s) (arg := arg) (rest := rest) q h1 h2
    ((card_eq hc).trans (List.append_assoc _ _ _).symm)
  rw [require_ok (s := k.state s) q n _ hr, answered, answered, heard_state]
  exact congrArg (fun t => EStateM.Result.ok () { t with
    lastR1 := 0x00#8, tries := s.cfg.cmdRespTries - (l2.length - (if idx = 12#8 then 7 else 6)) })
    (heard_state (s := s) (k := (k.goTo (.body n 1)).command s 55#8 0x00000000#32 0x00#8 0x00#8 l1) l2 _)

theorem received_state (dest : Nat) {b : BlockIn} (hb : b.payload ≠ []) (hcrc : b.crc.length = 2) (old : List Host.Cell) :
    heard (received (polled (k.state s) s.cfg.tokenWaitTries b.wait) dest 0 b.payload old) [filler, filler] b.crc =
      (k.block s dest b old).state s := by
  rw [polled_state]
  simp [heard, received, state, block, wait, hear, BlockIn.bytes, BlockIn.events, hb, hcrc, Nat.add_assoc, List.drop_drop]

theorem receive_state (q : Quiet s) (hr : s.reqOld = []) (n : Nat) {len off : Nat} {b : BlockIn} {rest : List Byte}
    (hb : b.Good s len) (hlen : 0 < len) (hc : s.card = k.bytes ++ (b.bytes ++ rest)) (ha : WritesAdmitted s (s.lBuf.toNat + off) len) :
    ∃ old, require n .tokenFail (receiveRegister len off) (k.state s) =
      .ok () (((k.block s (s.lBuf.toNat + off) b old).goTo (.body n 1)).state s) := by
  obtain ⟨ht, rfl, hcrc⟩ := hb
  obtain ⟨old, h⟩ := dataReceive_quiet (s := (k.goTo (.body n 1)).state s) q hr ht hcrc (card_eq hc) ha
  refine ⟨old, require_ok (s := k.state s) q n _ ((blk_bind_ok (payloadAddress_apply off _) _).trans (h.trans ?_))⟩
  exact congrArg _ (received_state _ (List.length_pos_iff.1 hlen) hcrc old)

theorem csd_state (q : Quiet s) (hr : s.reqOld = []) {csd : Vector Byte 16} {b : BlockIn} {rest : List Byte}
    (hb : b.Good s 16) (hp : b.payload = csd.toList) (hc : s.card = k.bytes ++ (b.bytes ++ rest)) (ha : WritesAdmitted s s.lBuf.toNat 16) :
    ∃ old, csdReceive (k.state s) = .ok () ((((k.block s s.lBuf.toNat b old).keepCsd csd).goTo (.body 11 2)).state s) := by
  obtain ⟨ht, hlen, hcrc⟩ := hb
  obtain ⟨old, h⟩ := csdReceive_quiet (s := k.state s) (t := b.wait) (crc := b.crc) (csd := csd) (rest := rest) q hr ht hcrc
    ((card_eq hc).trans (by rw [← hp]; rfl)) ha
  refine ⟨old, h.trans ?_⟩
  have hne : b.payload ≠ [] := by intro e; rw [e] at hlen; cases hlen
  have e := congrArg (fun t => ({ t with csdShadow := csd, seq := .body 11 2 } : State))
    (received_state (s := s) (k := k) s.lBuf.toNat hne hcrc old)
  rw [hp] at e
  exact congrArg _ e

end Progress

@[simp] theorem started_card (op : BitVec 4) (s : State) : (started op s).card = s.card := rfl

/-- The bytes of a block that comes (R84). -/
theorem BlockIn.Good.length {s : State} {n : Nat} {b : BlockIn} (h : b.Good s n) : b.bytes.length = b.wait.length + (n + 2) := by
  obtain ⟨-, hp, hcrc⟩ := h
  simp [BlockIn.bytes, hp, hcrc]

end Sys2Proof.Machine
end

section
/-! SUPPORT. INFO's successful path when nothing arrives from outside (44_register_ops.md R200, R205): the CSD, the CID, on any card but
an MMC the SCR, then CAPKB and BLKSIZE. -/
namespace Sys2Proof.Machine

open Progress

/-! ### CSD and CID -/

/-- What the card sends while INFO reads the CSD and the CID. -/
structure CsdCid where
  ready1 : List Byte
  cmd9 : List Byte
  csd : BlockIn
  ready2 : List Byte
  cmd10 : List Byte
  cid : BlockIn

/-- Each of these phases passes; the CSD is `v`. -/
structure CsdCid.Good (x : CsdCid) (s : State) (v : Vector Byte 16) : Prop where
  ready1 : IdleReply s x.ready1
  cmd9 : CommandReply s 9#8 0x00#8 x.cmd9
  csd : x.csd.Good s 16
  payload : x.csd.payload = v.toList
  ready2 : IdleReply s x.ready2
  cmd10 : CommandReply s 10#8 0x00#8 x.cmd10
  cid : x.cid.Good s 16

def CsdCid.bytes (x : CsdCid) : List Byte := x.ready1 ++ x.cmd9 ++ x.csd.bytes ++ x.ready2 ++ x.cmd10 ++ x.cid.bytes

section
variable (s : State) (x : CsdCid) (v : Vector Byte 16) (old1 old2 : List Host.Cell)

/-- The run once CMD9 is accepted. -/
def csdAsked : Progress :=
  ((((fresh s).goTo (.body 1 1)).select.wait s.cfg.idleWaitTries x.ready1).goTo (.body 3 1)).command s 9#8 0x00000000#32
    0x00#8 0x00#8 x.cmd9 |>.goTo (.body 4 1)

/-- The run once the CSD has come. -/
def csdRead : Progress := ((csdAsked s x).block s s.lBuf.toNat x.csd old1).keepCsd v |>.goTo (.body 11 2)

/-- The run once CMD10 is accepted. -/
def cidAsked : Progress :=
  (((csdRead s x v old1).wait s.cfg.idleWaitTries x.ready2).goTo (.body 13 1)).command s 10#8 0x00000000#32 0x00#8 0x00#8 x.cmd10
    |>.goTo (.body 14 1)

/-- The run once the CID has come. -/
def cidRead : Progress := ((cidAsked s x v old1).block s (s.lBuf.toNat + 16) x.cid old2).goTo (.body 15 1)

@[simp] theorem csdAsked_bytes : (csdAsked s x).bytes = x.ready1 ++ x.cmd9 := by simp [csdAsked]
@[simp] theorem csdRead_bytes : (csdRead s x v old1).bytes = x.ready1 ++ x.cmd9 ++ x.csd.bytes := by simp [csdRead]
@[simp] theorem cidAsked_bytes : (cidAsked s x v old1).bytes = x.ready1 ++ x.cmd9 ++ x.csd.bytes ++ x.ready2 ++ x.cmd10 := by
  simp [cidAsked]
@[simp] theorem cidRead_bytes : (cidRead s x v old1 old2).bytes = x.bytes := by simp [cidRead, CsdCid.bytes]
end

/-- INFO after the CID. -/
def infoRest : Blk Unit := do
  scrUnlessMmc
  infoSets

/-- INFO reads both. -/
theorem bodyInfo_passes {s : State} (q : Quiet s) (hr : s.reqOld = []) {x : CsdCid} {v : Vector Byte 16} (hx : x.Good s v)
    {rest : List Byte} (hc : s.card = x.bytes ++ rest) (ha : WritesAdmitted s s.lBuf.toNat 32) :
    ∃ old1 old2, bodyInfo s = infoRest ((cidRead s x v old1 old2).state s) := by
  have ha1 : WritesAdmitted s s.lBuf.toNat 16 := fun i hi => ha i (by omega)
  have ha2 : WritesAdmitted s (s.lBuf.toNat + 16) 16 := fun i hi => Nat.add_assoc _ _ _ ▸ ha (16 + i) (by omega)
  simp only [CsdCid.bytes, List.append_assoc] at hc
  obtain ⟨old1, hcsd⟩ := csd_state (k := csdAsked s x) q hr hx.csd hx.payload
    (rest := x.ready2 ++ (x.cmd10 ++ (x.cid.bytes ++ rest))) (by simp [hc]) ha1
  obtain ⟨old2, hcid⟩ := receive_state (k := cidAsked s x v old1) q hr 15 hx.cid (by decide) (rest := rest) (by simp [hc]) ha2
  refine ⟨old1, old2, ?_⟩
  calc bodyInfo s = bodyInfo ((fresh s).state s) := by rw [state_fresh]
    _ = infoRest ((cidRead s x v old1 old2).state s) := by
      refine (blk_bind_ok (at_state q (.body 1 1)) _).trans ((blk_bind_ok (select_state q) _).trans ?_)
      refine (blk_bind_ok (ready_state q 3 hx.ready1 (by simp [hc]; rfl)) _).trans ?_
      refine (blk_bind_ok (accept_state q 4 hx.cmd9 (by simp [hc]; rfl)) _).trans ((blk_bind_ok hcsd _).trans ?_)
      refine (blk_bind_ok (ready_state (k := csdRead s x v old1) q 13 hx.ready2 (by simp [hc]; rfl)) _).trans ?_
      exact (blk_bind_ok (accept_state q 14 hx.cmd10 (by simp [hc]; rfl)) _).trans (blk_bind_ok hcid _)

/-! ### The end of INFO -/

theorem infoSets_state {s : State} {k : Progress} (q : Quiet s) : infoSets (k.state s) =
    .ok () { (k.goTo (.body 24 1)).state s with capkb := capacityKB k.csdShadow, blksize := 0x00000200#32 } := by
  refine (blk_bind_ok (at_state q (.body 22 1)) _).trans ?_
  refine (blk_bind_ok (line_quiet (s := { (k.goTo (.body 22 1)).state s with capkb := capacityKB k.csdShadow }) q 23) _).trans ?_
  exact line_quiet (s := { (k.goTo (.body 23 1)).state s with
    capkb := capacityKB k.csdShadow, blksize := 0x00000200#32 }) q 24

theorem scrUnlessMmc_mmc {s : State} {k : Progress} (q : Quiet s) (hf : k.family = .mmc) :
    scrUnlessMmc (k.state s) = .ok () ((k.goTo (.body 17 1)).state s) := by
  refine (blk_bind_ok (at_state q (.body 17 1)) _).trans ((blk_bind_ok (blk_get _) _).trans ?_)
  exact congrFun (if_pos hf) _

/-- What the card sends while INFO reads the SCR. -/
structure Scr where
  ready : List Byte
  cmd55 : List Byte
  cmd51 : List Byte
  scr : BlockIn

/-- Each of these phases passes. -/
structure Scr.Good (y : Scr) (s : State) : Prop where
  ready : IdleReply s y.ready
  cmd55 : CommandReply s 55#8 0x00#8 y.cmd55
  cmd51 : CommandReply s 51#8 0x00#8 y.cmd51
  scr : y.scr.Good s 8

/-- The run once ACMD51 is accepted. -/
def scrAsked (s : State) (k : Progress) (y : Scr) : Progress :=
  (((((k.goTo (.body 17 1)).wait s.cfg.idleWaitTries y.ready).goTo (.body 18 1)).command s 55#8 0x00000000#32 0x00#8 0x00#8
    y.cmd55).command s 51#8 0x00000000#32 0x00#8 0x00#8 y.cmd51).goTo (.body 19 1)

/-- The run once the SCR has come. -/
def scrRead (s : State) (k : Progress) (y : Scr) (old : List Host.Cell) : Progress :=
  ((scrAsked s k y).block s (s.lBuf.toNat + 32) y.scr old).goTo (.body 20 1)

@[simp] theorem scrAsked_bytes (s : State) (k : Progress) (y : Scr) :
    (scrAsked s k y).bytes = k.bytes ++ (y.ready ++ (y.cmd55 ++ y.cmd51)) := by simp [scrAsked]

@[simp] theorem scrRead_bytes (s : State) (k : Progress) (y : Scr) (old : List Host.Cell) :
    (scrRead s k y old).bytes = k.bytes ++ (y.ready ++ (y.cmd55 ++ (y.cmd51 ++ y.scr.bytes))) := by simp [scrRead]

/-- Every other card sends its SCR. -/
theorem scrUnlessMmc_passes {s : State} {k : Progress} (q : Quiet s) (hr : s.reqOld = []) (hf : k.family ≠ .mmc) {y : Scr}
    (hy : y.Good s) {rest : List Byte} (hc : s.card = k.bytes ++ (y.ready ++ (y.cmd55 ++ (y.cmd51 ++ (y.scr.bytes ++ rest)))))
    (ha : WritesAdmitted s (s.lBuf.toNat + 32) 8) :
    ∃ old, scrUnlessMmc (k.state s) = .ok () ((scrRead s k y old).state s) := by
  obtain ⟨old, hscr⟩ := receive_state (k := scrAsked s k y) q hr 20 hy.scr (by decide) (rest := rest) (by simp [hc]) ha
  refine ⟨old, (blk_bind_ok (at_state q (.body 17 1)) _).trans ((blk_bind_ok (blk_get _) _).trans ?_)⟩
  refine (congrFun (if_neg hf) _).trans ?_
  refine (blk_bind_ok (ready_state q 18 hy.ready (by simp [hc]; rfl)) _).trans ?_
  exact (blk_bind_ok (app_state q 19 hy.cmd55 hy.cmd51 (by simp [hc]; rfl)) _).trans hscr

/-- INFO completes OK from where it has received everything. -/
theorem exec_info_ok {s : State} (q : Quiet s) (h : Ready s) {k : Progress}
    (hk : bodyInfo (started 0x9#4 s) = infoSets (k.state (started 0x9#4 s))) (hcs : k.cs = true) {trail : Byte} {rest : List Byte}
    (hc : s.card = k.bytes ++ trail :: rest) : exec .info s = .next (complete .ok { (k.release trail).state (started 0x9#4 s) with
      card := rest, capkb := capacityKB k.csdShadow, blksize := 0x00000200#32 }) := by
  have pass : preCheck 0x9#4 (latch 0x9#4 s) = none := preCheck_ready (by decide) (by decide) h.2 fun h => absurd h (by decide)
  let s' := { (k.goTo (.body 24 1)).state (started 0x9#4 s) with capkb := capacityKB k.csdShadow, blksize := 0x00000200#32 }
  have card : s'.card = trail :: rest := card_eq (k := k) (s := started 0x9#4 s) (l := [trail]) hc
  have last : s.card.drop (k.bytes.length + 1) = rest := by simp [hc]
  refine congrArg Host.Outcome.next ((start_runs h.1 bodyInfo pass).trans ((run_ok (hk.trans (infoSets_state q))).trans ?_))
  rw [finishRun_selected (s := s') q hcs .ok card]
  simp [complete, released, s', state, Progress.release, hear, goTo, releaseEvents, last, Nat.add_assoc]

/-- Settles O33. -/
theorem infoOnMmc : Obligations.InfoOnMmc := by
  intro s w1 w2 c9 c10 v b1 b2 trail rest q h hf ha h1 h9 hb1 hp h2 h10 hb2 hc
  have hx : (CsdCid.mk w1 c9 b1 w2 c10 b2).Good (started 0x9#4 s) v := ⟨h1, h9, hb1, hp, h2, h10, hb2⟩
  obtain ⟨old1, old2, e⟩ := bodyInfo_passes (s := started 0x9#4 s) (rest := trail :: rest) q rfl hx hc ha
  have e' := e.trans (blk_bind_ok (scrUnlessMmc_mmc (s := started 0x9#4 s) q hf) _)
  rw [exec_info_ok q h e' rfl (by simpa [CsdCid.bytes] using hc)]
  congr 1
  simp [complete, state, cidRead, cidAsked, csdRead, csdAsked, goTo, block, command, keepCsd, wait, hear, Progress.select, fresh, started,
    latch, Progress.release, hb1.length, hb2.length, hb2.2.1, Nat.add_assoc]

/-- Settles O34. -/
theorem infoWithScr : Obligations.InfoWithScr := by
  intro s w1 w2 w3 c9 c10 c55 c51 v b1 b2 b3 trail rest q h hf ha h1 h9 hb1 hp h2 h10 hb2 h3 h55 h51 hb3 hc
  have hx : (CsdCid.mk w1 c9 b1 w2 c10 b2).Good (started 0x9#4 s) v := ⟨h1, h9, hb1, hp, h2, h10, hb2⟩
  have hy : (Scr.mk w3 c55 c51 b3).Good (started 0x9#4 s) := ⟨h3, h55, h51, hb3⟩
  have ha1 : WritesAdmitted s s.bufbase.toNat 32 := fun i hi => ha i (by omega)
  have ha2 : WritesAdmitted s (s.bufbase.toNat + 32) 8 := fun i hi => Nat.add_assoc _ _ _ ▸ ha (32 + i) (by omega)
  simp only [List.append_assoc] at hc
  obtain ⟨old1, old2, e1⟩ := bodyInfo_passes (s := started 0x9#4 s) (rest := w3 ++ (c55 ++ (c51 ++ (b3.bytes ++ trail :: rest)))) q rfl
    hx (by simpa [CsdCid.bytes] using hc) ha1
  obtain ⟨old3, e2⟩ := scrUnlessMmc_passes (s := started 0x9#4 s) (k := cidRead (started 0x9#4 s) ⟨w1, c9, b1, w2, c10, b2⟩ v old1 old2)
    (rest := trail :: rest) q rfl hf hy (by simpa [CsdCid.bytes] using hc) ha2
  rw [exec_info_ok q h (e1.trans (blk_bind_ok e2 _)) rfl (by simpa [CsdCid.bytes] using hc)]
  congr 1
  simp [complete, state, scrRead, scrAsked, cidRead, cidAsked, csdRead, csdAsked, goTo, block, command, keepCsd, wait, hear,
    Progress.select, fresh, started, latch, Progress.release, hb1.length, hb2.length, hb3.length, hb3.2.1, Nat.add_assoc]

end Sys2Proof.Machine
end

section
/-! SUPPORT. INIT's stages when nothing arrives from outside and the card's answers are known, as parts (42_initialization.md R142): what
each bounded loop does, whatever number of attempts it takes. -/
namespace Sys2Proof.Machine

open Progress

/-! ### A run as parts -/

/-- `k` after these parts, with SEQ, the try counter and FAMILY at these values. -/
def Progress.play (s : State) (k : Progress) (ps : List Part) (q : Seq) (n : Nat) (f : Family) : Progress :=
  { k with
    bytes := k.bytes ++ partsBytes ps, events := k.events ++ partsEvents s ps, lastR1 := ps.foldl Part.lastR1 k.lastR1
    ext := ps.foldl Part.lastExt k.ext, ext32 := partsExt32 { s with ext32 := k.ext32 } ps, seq := q, tries := n, family := f }

section
variable (s : State) (k : Progress) (ps qs : List Part) (q q' : Seq) (n n' : Nat) (f f' : Family)

@[simp] theorem play_bytes : (k.play s ps q n f).bytes = k.bytes ++ partsBytes ps := rfl
@[simp] theorem play_family : (k.play s ps q n f).family = f := rfl

theorem play_play : (k.play s ps q n f).play s qs q' n' f' = k.play s (ps ++ qs) q' n' f' := by
  simp [play, partsBytes, partsEvents, partsExt32, List.foldl_append]

theorem play_nil : k.play s [] q n f = { k with seq := q, tries := n, family := f } := by
  simp [play, partsBytes, partsEvents, partsExt32]
end

/-- A piece gives `a` after these parts, with FAMILY at `f`. -/
def Gives {α : Type} (s : State) (k : Progress) (m : Blk α) (ps : List Part) (f : Family) (a : α) : Prop :=
  ∃ q n, m (k.state s) = .ok a ((k.play s ps q n f).state s)

/-- How a stage ends: it passes, or it raises a cause. -/
def ends : Option Cause → State → EStateM.Result Stop State Unit
  | none, t => .ok () t
  | some c, t => .error (.raised c) t

/-- A stage ends so after these parts, with FAMILY at `f`. -/
def Plays (s : State) (k : Progress) (m : Blk Unit) (ps : List Part) (f : Family) (o : Option Cause) : Prop :=
  ∃ q n, m (k.state s) = ends o ((k.play s ps q n f).state s)

variable {α : Type} {s : State} {k : Progress} {ps qs : List Part} {f f' : Family} {o : Option Cause} {a : α}

theorem Gives.bind {m : Blk α} {g : α → Blk Unit} (h : Gives s k m ps f a)
    (hg : ∀ q n, Plays s (k.play s ps q n f) (g a) qs f' o) : Plays s k (m >>= g) (ps ++ qs) f' o := by
  obtain ⟨q, n, e⟩ := h
  obtain ⟨q', n', e'⟩ := hg q n
  exact ⟨q', n', (blk_bind_ok e g).trans (by rw [e', play_play])⟩

theorem Plays.bind {m : Blk Unit} {g : Unit → Blk Unit} (h : Plays s k m ps f none)
    (hg : ∀ q n, Plays s (k.play s ps q n f) (g ()) qs f' o) : Plays s k (m >>= g) (ps ++ qs) f' o := Gives.bind (a := ()) h hg

theorem Plays.stop {m : Blk Unit} {g : Unit → Blk Unit} {c : Cause} (h : Plays s k m ps f (some c)) :
    Plays s k (m >>= g) ps f (some c) := by
  obtain ⟨q, n, e⟩ := h
  exact ⟨q, n, blk_bind_error e g⟩

/-- A piece goes on as `m'` after these parts. -/
def GoesTo (s : State) (k : Progress) (m : Blk Unit) (ps : List Part) (f : Family) (m' : Blk Unit) : Prop :=
  ∃ q n, m (k.state s) = m' ((k.play s ps q n f).state s)

theorem GoesTo.refl (m : Blk Unit) : GoesTo s k m [] k.family m := ⟨k.seq, k.tries, by rw [play_nil]⟩

theorem Gives.goesTo {m : Blk α} {g : α → Blk Unit} {m' : Blk Unit} (h : Gives s k m ps f a)
    (hg : ∀ q n, GoesTo s (k.play s ps q n f) (g a) qs f' m') : GoesTo s k (m >>= g) (ps ++ qs) f' m' := by
  obtain ⟨q, n, e⟩ := h
  obtain ⟨q', n', e'⟩ := hg q n
  exact ⟨q', n', (blk_bind_ok e g).trans (by rw [e', play_play])⟩

theorem GoesTo.plays {m m' : Blk Unit} (h : GoesTo s k m ps f m') (hm : ∀ q n, Plays s (k.play s ps q n f) m' qs f' o) :
    Plays s k m (ps ++ qs) f' o := by
  obtain ⟨q, n, e⟩ := h
  obtain ⟨q', n', e'⟩ := hm q n
  exact ⟨q', n', e.trans (by rw [e', play_play])⟩

theorem Plays.pure : Plays s k (pure () : Blk Unit) [] k.family none := ⟨k.seq, k.tries, by rw [play_nil]; rfl⟩

theorem Plays.raise (c : Cause) : Plays s k (raise c) [] k.family (some c) := ⟨k.seq, k.tries, by rw [play_nil]; rfl⟩

theorem Plays.get {g : State → Blk Unit} (h : Plays s k (g (k.state s)) ps f o) : Plays s k ((MonadState.get : Blk State) >>= g) ps f o := h

theorem setTries_gives (n : Nat) : Gives s k (setTries n) [] k.family () := ⟨k.seq, n, by rw [play_nil]; rfl⟩

theorem setFamily_gives (f : Family) : Gives s k (setFamily f) [] f () := ⟨k.seq, k.tries, by rw [play_nil]; rfl⟩

section
variable (q : Quiet s)
include q

theorem initAt_gives (st : InitState) (n m : Nat) : Gives s k (initAt st n m) [] k.family () :=
  ⟨.init st n m, k.tries, by rw [play_nil]; exact at_state q _⟩

theorem initAt_plays (st : InitState) (n m : Nat) : Plays s k (initAt st n m) [] k.family none := initAt_gives q st n m

/-- A command and its reply, whose last byte is the response (R36, R102). -/
theorem command_gives {idx : Byte} {arg : Word} {crc r : Byte} {l rest : List Byte} (hl : CommandReply s idx r l)
    (hc : s.card = k.bytes ++ (partsBytes [.command idx arg crc l] ++ rest)) :
    Gives s k (sendCommand idx arg crc) [.command idx arg crc l] k.family r := by
  obtain ⟨junk, polls, -, -, -, -, e⟩ := id hl
  refine ⟨k.seq, (k.command s idx arg crc r l).tries, (command_state q hl (by simpa [partsBytes, Part.bytes] using hc)).trans ?_⟩
  simp [play, command, hear, partsBytes, Part.bytes, partsEvents, Part.events, Part.lastR1, Part.lastExt, partsExt32, e]

/-- An extended response (R37, R105). -/
theorem ext_gives {e : Vector Byte 4} {rest : List Byte} (hc : s.card = k.bytes ++ (partsBytes [.ext e] ++ rest)) :
    Gives s k getExtendedResponse [.ext e] k.family (e[0] ++ e[1] ++ e[2] ++ e[3]) := by
  refine ⟨k.seq, k.tries, (ext_state q (by simpa [partsBytes, Part.bytes] using hc)).trans ?_⟩
  simp [play, readExt, hear, partsBytes, Part.bytes, partsEvents, Part.events, Part.lastR1, Part.lastExt, partsExt32]

/-- The end of an iteration: with a try left the loop goes on, with none it fails (R142). -/
theorem lastTry_passes (st : InitState) (ln n : Nat) (c : Cause) : Plays s k (lastTry st ln (n + 1) c) [] k.family none :=
  Plays.bind (initAt_plays q _ _ _) fun _ _ => Gives.bind (setTries_gives _) fun _ _ => Plays.bind (initAt_plays q _ _ _) fun _ _ =>
    Plays.pure

theorem lastTry_fails (st : InitState) (ln : Nat) (c : Cause) : Plays s k (lastTry st ln 0 c) [] k.family (some c) :=
  Plays.bind (initAt_plays q _ _ _) fun _ _ => Gives.bind (setTries_gives _) fun _ _ => Plays.bind (initAt_plays q _ _ _) fun _ _ =>
    Plays.bind (initAt_plays q _ _ _) fun _ _ => Plays.raise c

end

/-! ### Bounded loops -/

theorem partsBytes_cons (p : Part) (ps : List Part) : partsBytes (p :: ps) = p.bytes ++ partsBytes ps := rfl

theorem partsBytes_append (ps qs : List Part) : partsBytes (ps ++ qs) = partsBytes ps ++ partsBytes qs := List.flatMap_append

/-- A bounded loop of INIT: with no try it fails, and after an attempt that is `bad` it counts that and goes on (R142). -/
structure Loop (s : State) (f : Family) (loop : Nat → Blk Unit) (c : Cause) {β : Type} (attempt : β → List Part) (bad : β → Prop) :
    Prop where
  zero : loop 0 = raise c
  again : ∀ (x : β) (n : Nat) (k : Progress) (rest : List Byte), bad x → k.family = f →
    s.card = k.bytes ++ (partsBytes (attempt x) ++ rest) →
    ∃ st ln, GoesTo s k (loop (n + 1)) (attempt x) f (lastTry st ln n c >>= fun _ => loop n)

namespace Loop
variable {loop : Nat → Blk Unit} {c : Cause} {β : Type} {attempt : β → List Part} {bad : β → Prop}

/-- As many bad attempts as the bound: it fails. -/
theorem exhausts (h : Loop s f loop c attempt bad) (q : Quiet s) (xs : List β) : ∀ {k : Progress} {rest : List Byte}, (∀ x ∈ xs, bad x) →
    k.family = f → s.card = k.bytes ++ (partsBytes (xs.flatMap attempt) ++ rest) →
    Plays s k (loop xs.length) (xs.flatMap attempt) f (some c) := by
  induction xs with
  | nil =>
    intro k rest _ hf _
    show Plays s k (loop 0) [] f _
    rw [h.zero, ← hf]
    exact .raise c
  | cons x xs ih =>
    intro k rest hbad hf hc
    obtain ⟨hx, hxs⟩ := List.forall_mem_cons.1 hbad
    rw [List.flatMap_cons, partsBytes_append, List.append_assoc] at hc
    obtain ⟨st, ln, counts⟩ := h.again x xs.length k _ hx hf hc
    refine counts.plays fun p m => ?_
    cases xs with
    | nil => exact (lastTry_fails q st ln c).stop
    | cons y ys => exact (lastTry_passes q st ln ys.length c).bind fun _ _ => ih hxs rfl (by simpa [partsBytes] using hc)

/-- Fewer bad attempts than the bound, and then one that ends the loop. -/
theorem skips (h : Loop s f loop c attempt bad) (q : Quiet s) {rest : List Byte} {f' : Family}
    (last : ∀ (k : Progress) (m : Nat), k.family = f → s.card = k.bytes ++ (partsBytes ps ++ rest) → Plays s k (loop (m + 1)) ps f' o) (xs : List β) :
    ∀ {k : Progress} {n : Nat}, (∀ x ∈ xs, bad x) → xs.length < n → k.family = f →
    s.card = k.bytes ++ (partsBytes (xs.flatMap attempt ++ ps) ++ rest) → Plays s k (loop n) (xs.flatMap attempt ++ ps) f' o := by
  induction xs with
  | nil =>
    intro k n _ hn hf hc
    obtain ⟨m, rfl⟩ : ∃ m, n = m + 1 := ⟨n - 1, by simp at hn; omega⟩
    exact last k m hf hc
  | cons x xs ih =>
    intro k n hbad hn hf hc
    obtain ⟨hx, hxs⟩ := List.forall_mem_cons.1 hbad
    obtain ⟨m, rfl⟩ : ∃ m, n = m + 2 := ⟨n - 2, by simp at hn; omega⟩
    rw [List.flatMap_cons, List.append_assoc, partsBytes_append, List.append_assoc] at hc
    obtain ⟨st, ln, counts⟩ := h.again x (m + 1) k _ hx hf hc
    rw [List.flatMap_cons, List.append_assoc]
    exact counts.plays fun p m' => (lastTry_passes q st ln m c).bind fun _ _ =>
      ih hxs (by simpa using hn) rfl (by simpa [partsBytes] using hc)

end Loop

/-! ### The loops of INIT -/

section
variable (q : Quiet s)
include q

/-- CMD0 until exactly idle. -/
theorem spiIdle_loop : Loop s f spiIdleLoop .idleTimeout (fun l => [.command 0#8 0x00000000#32 0x95#8 l])
    fun l => ∃ r, r ≠ 0x01#8 ∧ CommandReply s 0#8 r l where
  zero := rfl
  again l n k rest hl hf hc := by
    obtain ⟨r, hr, hl⟩ := hl
    subst hf
    refine ⟨.spiIdle, 10, (initAt_gives q _ _ _).goesTo fun _ _ => (initAt_gives q _ _ _).goesTo fun _ _ =>
      (command_gives q hl (by simpa [partsBytes] using hc)).goesTo fun _ _ => (initAt_gives q _ _ _).goesTo fun _ _ => ?_⟩
    rw [if_neg (by simpa [exactlyIdle] using hr)]
    exact .refl _

theorem spiIdle_last {k : Progress} (m : Nat) {l rest : List Byte} (hl : CommandReply s 0#8 0x01#8 l)
    (hc : s.card = k.bytes ++ (partsBytes [.command 0#8 0x00000000#32 0x95#8 l] ++ rest)) :
    Plays s k (spiIdleLoop (m + 1)) [.command 0#8 0x00000000#32 0x95#8 l] k.family none :=
  (initAt_plays q _ _ _).bind fun _ _ => (initAt_plays q _ _ _).bind fun _ _ =>
    (command_gives q hl (by simpa [partsBytes] using hc)).bind fun _ _ => (initAt_plays q _ _ _).bind fun _ _ => initAt_plays q _ _ _

theorem idlePhase_plays {k : Progress} {ps : List Part} (h : IdlePhase s ps) {rest : List Byte}
    (hc : s.card = k.bytes ++ (partsBytes ps ++ rest)) : Plays s k (spiIdleLoop s.cfg.goIdleTries) ps k.family none := by
  obtain ⟨bad, l, hn, hbad, hl, rfl⟩ := h
  rw [List.map_append, List.map_eq_flatMap] at hc ⊢
  exact (spiIdle_loop q).skips q (fun k m hf hc => hf ▸ spiIdle_last q m hl hc) bad hbad hn rfl hc

theorem spiIdle_fails {k : Progress} {bad : List (List Byte)} (hn : bad.length = s.cfg.goIdleTries) (hbad : Replies s 0#8 (· ≠ 0x01#8) bad)
    {rest : List Byte} (hc : s.card = k.bytes ++ (partsBytes (bad.map (.command 0#8 0x00000000#32 0x95#8)) ++ rest)) :
    Plays s k (spiIdleLoop s.cfg.goIdleTries) (bad.map (.command 0#8 0x00000000#32 0x95#8)) k.family (some .idleTimeout) := by
  rw [List.map_eq_flatMap] at hc ⊢
  exact hn ▸ (spiIdle_loop q).exhausts q bad hbad rfl hc

end

/-! ### What INIT tests -/

theorem rejectedIllegal_eq : ∀ r : Byte, rejectedIllegal r = r.getLsbD 2 := by decide

theorem idleBitSet_eq : ∀ r : Byte, idleBitSet r = r.getLsbD 0 := by decide

/-- The check pattern is the last two bytes (R79). -/
theorem echoMatches_iff (b0 b1 b2 b3 : Byte) : echoMatches (b0 ++ b1 ++ b2 ++ b3) = true ↔ (b2, b3) = (0x01#8, 0xAA#8) := by
  have low : (b0 ++ b1 ++ b2 ++ b3 : BitVec (8 + 8 + 8 + 8)).extractLsb' 0 (8 + 8) = b2 ++ b3 := by
    ext i hi
    simp only [BitVec.getElem_extractLsb', BitVec.getElem_append, BitVec.getLsbD_append, Nat.zero_add]
    by_cases h : i < 8
    · simp [h]
    · simp [h, show i - 8 < 8 by omega]
  have parts : ∀ x y : Byte, (x ++ y : BitVec (8 + 8)).extractLsb' 8 8 = x ∧ (x ++ y : BitVec (8 + 8)).extractLsb' 0 8 = y := fun x y => by
    simp only [BitVec.extractLsb'_append_eq_ite]; simp
  have low' : echoMatches (b0 ++ b1 ++ b2 ++ b3) = (b2 ++ b3 == 0x01#8 ++ 0xAA#8) := congrArg (· == 0x01AA#16) low
  rw [low', beq_iff_eq, Prod.mk.injEq]
  refine ⟨fun h => ?_, fun ⟨h1, h2⟩ => by rw [h1, h2]⟩
  obtain ⟨e1, e2⟩ := parts b2 b3
  rw [h] at e1 e2
  exact ⟨e1.symm.trans (parts _ _).1, e2.symm.trans (parts _ _).2⟩
/-- Bit 30 of the OCR is bit 6 of its first byte (R79). -/
theorem ocrHighCapacity_eq (b0 b1 b2 b3 : Byte) : ocrHighCapacity (b0 ++ b1 ++ b2 ++ b3) = b0.getLsbD 6 := by
  have h : (b0 ++ b1 ++ b2 ++ b3 : BitVec (8 + 8 + 8 + 8)).getLsbD 30 = b0.getLsbD 6 := by simp only [BitVec.getLsbD_append]; simp
  exact h

/-! ### VoltageCheck -/

section
variable (q : Quiet s)
include q

/-- A CMD8 that is not rejected, and its echo. -/
theorem voltageCheck_loop : Loop s f voltageCheckLoop .vcheckMismatch echoParts
    fun x => EchoAttempt s x ∧ (x.2[2], x.2[3]) ≠ (0x01#8, 0xAA#8) where
  zero := rfl
  again x n k rest hx hf hc := by
    obtain ⟨l, e⟩ := x
    obtain ⟨⟨r, hr, hl⟩, he⟩ := hx
    subst hf
    rw [echoParts, partsBytes_cons, List.append_assoc] at hc
    refine ⟨.voltageCheck, 23, (initAt_gives q _ _ _).goesTo fun _ _ => (initAt_gives q _ _ _).goesTo fun _ _ =>
      (command_gives q hl (by simpa [partsBytes] using hc)).goesTo fun _ _ => (initAt_gives q _ _ _).goesTo fun _ _ => ?_⟩
    rw [if_neg (by rw [rejectedIllegal_eq, hr]; decide)]
    refine (initAt_gives q _ _ _).goesTo fun _ _ => (ext_gives q (by simpa [partsBytes] using hc)).goesTo fun _ _ =>
      (initAt_gives q _ _ _).goesTo fun _ _ => ?_
    rw [if_neg (by rw [echoMatches_iff]; exact he)]
    exact .refl _

theorem voltageCheck_rejected {k : Progress} (m : Nat) {l rest : List Byte} {r : Byte} (hr : r.getLsbD 2 = true)
    (hl : CommandReply s 8#8 r l) (hc : s.card = k.bytes ++ (partsBytes [.command 8#8 0x000001AA#32 0x87#8 l] ++ rest)) :
    Plays s k (voltageCheckLoop (m + 1)) [.command 8#8 0x000001AA#32 0x87#8 l] .sdscV1 none := by
  refine (initAt_plays q _ _ _).bind fun _ _ => (initAt_plays q _ _ _).bind fun _ _ =>
    (command_gives q hl (by simpa [partsBytes] using hc)).bind fun _ _ => (initAt_plays q _ _ _).bind fun _ _ => ?_
  rw [if_pos (by rw [rejectedIllegal_eq, hr])]
  exact (initAt_plays q _ _ _).bind fun _ _ => (setFamily_gives _).bind fun _ _ => initAt_plays q _ _ _

theorem voltageCheck_echoed {k : Progress} (m : Nat) {x : List Byte × Vector Byte 4} {rest : List Byte} (hx : EchoAttempt s x)
    (he : (x.2[2], x.2[3]) = (0x01#8, 0xAA#8)) (hc : s.card = k.bytes ++ (partsBytes (echoParts x) ++ rest)) :
    Plays s k (voltageCheckLoop (m + 1)) (echoParts x) .sdscV2 none := by
  obtain ⟨l, e⟩ := x
  obtain ⟨r, hr, hl⟩ := hx
  rw [echoParts, partsBytes_cons, List.append_assoc] at hc
  refine (initAt_plays q _ _ _).bind fun _ _ => (initAt_plays q _ _ _).bind fun _ _ =>
    (command_gives q hl (by simpa [partsBytes] using hc)).bind fun _ _ => (initAt_plays q _ _ _).bind fun _ _ => ?_
  rw [if_neg (by rw [rejectedIllegal_eq, hr]; decide)]
  refine (initAt_plays q _ _ _).bind fun _ _ => (ext_gives q (by simpa [partsBytes] using hc)).bind fun _ _ =>
    (initAt_plays q _ _ _).bind fun _ _ => ?_
  rw [if_pos (by rw [echoMatches_iff]; exact he)]
  exact (initAt_plays q _ _ _).bind fun _ _ => (setFamily_gives _).bind fun _ _ => initAt_plays q _ _ _

/-- VoltageCheck before its loop. -/
theorem voltageCheck_plays {k : Progress}
    (h : ∀ k' : Progress, k'.bytes = k.bytes → k'.family = k.family → Plays s k' (voltageCheckLoop s.cfg.vcheckTries) ps f o) :
    Plays s k voltageCheck ps f o :=
  (initAt_plays q _ _ _).bind fun _ _ => .get <| (setTries_gives _).bind fun _ _ => h _ (by simp [partsBytes]) rfl

theorem voltagePhase_plays {k : Progress} {cand : Family} (h : VoltagePhase s cand ps) {rest : List Byte}
    (hc : s.card = k.bytes ++ (partsBytes ps ++ rest)) : Plays s k voltageCheck ps cand none := by
  obtain ⟨bad, hn, hbad, ⟨rfl, l, r, hr, hl, rfl⟩ | ⟨rfl, x, hx, he, rfl⟩⟩ := h
  · exact voltageCheck_plays q fun k' hb hf => (voltageCheck_loop q).skips q (fun k m _ hc => voltageCheck_rejected q m hr hl hc) bad
      hbad hn hf (hb ▸ hc)
  · rw [List.flatMap_append, List.flatMap_singleton] at hc ⊢
    exact voltageCheck_plays q fun k' hb hf => (voltageCheck_loop q).skips q (fun k m _ hc => voltageCheck_echoed q m hx he hc) bad
      hbad hn hf (hb ▸ hc)

end

end Sys2Proof.Machine
end

section
/-! SUPPORT. INIT from its activation loop on, and as a whole, when nothing arrives from outside and the card's answers are known
(42_initialization.md R142, R144). -/
namespace Sys2Proof.Machine

open Progress

variable {s : State} {k : Progress} {ps qs : List Part} {f f' : Family} {o : Option Cause}

/-! ### AppCmdProbe and Activating -/

theorem hcsArg_eq (f : Family) : hcsArg f = if f = .sdscV2 then 0x40000000#32 else 0x00000000#32 := by cases f <;> rfl

section
variable (q : Quiet s)
include q

/-- A CMD55 that is not rejected, and an ACMD41 that leaves the card idle. -/
theorem activate_loop (cand : Family) : Loop s f (activateLoop (if cand = .sdscV2 then 0x40000000#32 else 0x00000000#32))
    .activateTimeout (activateParts cand) (ActivateAttempt s true) where
  zero := rfl
  again x n k rest hx hf hc := by
    obtain ⟨l, l'⟩ := x
    obtain ⟨⟨r, hr, hl⟩, r', hr', hl'⟩ := hx
    subst hf
    rw [activateParts] at hc ⊢
    generalize (if cand = .sdscV2 then 0x40000000#32 else 0x00000000#32 : Word) = hcs at hc ⊢
    rw [partsBytes_cons, List.append_assoc] at hc
    refine ⟨.activating, 35, (initAt_gives q _ _ _).goesTo fun _ _ => (initAt_gives q _ _ _).goesTo fun _ _ =>
      (command_gives q hl (by simpa [partsBytes] using hc)).goesTo fun _ _ => (initAt_gives q _ _ _).goesTo fun _ _ => ?_⟩
    rw [if_neg (by rw [rejectedIllegal_eq, hr]; decide)]
    refine (initAt_gives q _ _ _).goesTo fun _ _ => (command_gives q hl' (by simpa [partsBytes] using hc)).goesTo fun _ _ =>
      (initAt_gives q _ _ _).goesTo fun _ _ => ?_
    rw [if_pos (by rw [idleBitSet_eq, hr'])]
    exact .refl _

theorem activate_ready (cand : Family) {k : Progress} (m : Nat) {x : List Byte × List Byte} {rest : List Byte}
    (hx : ActivateAttempt s false x) (hc : s.card = k.bytes ++ (partsBytes (activateParts cand x) ++ rest)) :
    Plays s k (activateLoop (if cand = .sdscV2 then 0x40000000#32 else 0x00000000#32) (m + 1)) (activateParts cand x) k.family none := by
  obtain ⟨l, l'⟩ := x
  obtain ⟨⟨r, hr, hl⟩, r', hr', hl'⟩ := hx
  rw [activateParts] at hc ⊢
  generalize (if cand = .sdscV2 then 0x40000000#32 else 0x00000000#32 : Word) = hcs at hc ⊢
  rw [partsBytes_cons, List.append_assoc] at hc
  refine (initAt_plays q _ _ _).bind fun _ _ => (initAt_plays q _ _ _).bind fun _ _ =>
    (command_gives q hl (by simpa [partsBytes] using hc)).bind fun _ _ => (initAt_plays q _ _ _).bind fun _ _ => ?_
  rw [if_neg (by rw [rejectedIllegal_eq, hr]; decide)]
  refine (initAt_plays q _ _ _).bind fun _ _ => (command_gives q hl' (by simpa [partsBytes] using hc)).bind fun _ _ =>
    (initAt_plays q _ _ _).bind fun _ _ => ?_
  rw [if_neg (by rw [idleBitSet_eq, hr']; decide)]
  exact initAt_plays q _ _ _

theorem activate_mmc (hcs : Word) {k : Progress} (m : Nat) {l rest : List Byte} {r : Byte} (hr : r.getLsbD 2 = true)
    (hl : CommandReply s 55#8 r l) (hc : s.card = k.bytes ++ (partsBytes [.command 55#8 0x00000000#32 0x00#8 l] ++ rest)) :
    Plays s k (activateLoop hcs (m + 1)) [.command 55#8 0x00000000#32 0x00#8 l] .mmc none := by
  refine (initAt_plays q _ _ _).bind fun _ _ => (initAt_plays q _ _ _).bind fun _ _ =>
    (command_gives q hl (by simpa [partsBytes] using hc)).bind fun _ _ => (initAt_plays q _ _ _).bind fun _ _ => ?_
  rw [if_pos (by rw [rejectedIllegal_eq, hr])]
  exact (initAt_plays q _ _ _).bind fun _ _ => (setFamily_gives _).bind fun _ _ => initAt_plays q _ _ _

/-- The two before the loop, whose ACMD41 argument the candidate decides (R142, D17). -/
theorem activate_plays {k : Progress} (h : ∀ k' : Progress, k'.bytes = k.bytes → k'.family = k.family →
      Plays s k' (activateLoop (if k.family = .sdscV2 then 0x40000000#32 else 0x00000000#32) s.cfg.activateTries) ps f o) :
    Plays s k activate ps f o :=
  (initAt_plays q _ _ _).bind fun _ _ => .get <| (initAt_plays q _ _ _).bind fun _ _ => .get <|
    (setTries_gives _).bind fun _ _ => by
      rw [state_family, play_family, hcsArg_eq]
      exact h _ (by simp [partsBytes]) rfl

/-- Iterations that leave the card idle, and then what ends the loop. -/
theorem activate_skips {k : Progress} {idle : List (List Byte × List Byte)} (hn : idle.length < s.cfg.activateTries)
    (hidle : ∀ x ∈ idle, ActivateAttempt s true x) {rest : List Byte}
    (last : ∀ (k' : Progress) (m : Nat), k'.family = k.family → s.card = k'.bytes ++ (partsBytes ps ++ rest) →
      Plays s k' (activateLoop (if k.family = .sdscV2 then 0x40000000#32 else 0x00000000#32) (m + 1)) ps f o)
    (hc : s.card = k.bytes ++ (partsBytes (idle.flatMap (activateParts k.family) ++ ps) ++ rest)) :
    Plays s k activate (idle.flatMap (activateParts k.family) ++ ps) f o :=
  activate_plays q fun _ hb hf => (activate_loop q k.family).skips q last idle hidle hn hf (hb ▸ hc)

theorem activate_fails {k : Progress} {idle : List (List Byte × List Byte)} (hn : idle.length = s.cfg.activateTries)
    (hidle : ∀ x ∈ idle, ActivateAttempt s true x) {rest : List Byte}
    (hc : s.card = k.bytes ++ (partsBytes (idle.flatMap (activateParts k.family)) ++ rest)) :
    Plays s k activate (idle.flatMap (activateParts k.family)) k.family (some .activateTimeout) :=
  activate_plays q fun _ hb hf => hn ▸ (activate_loop q k.family).exhausts q idle hidle hf (hb ▸ hc)

/-! ### FamilyResolved -/

/-- A CMD1 that leaves the card idle. -/
theorem mmcActivate_loop : Loop s f mmcActivateLoop .mmcActivateTimeout (fun l => [.command 1#8 0x00000000#32 0x00#8 l])
    fun l => ∃ r, r.getLsbD 0 = true ∧ CommandReply s 1#8 r l where
  zero := rfl
  again l n k rest hl hf hc := by
    obtain ⟨r, hr, hl⟩ := hl
    subst hf
    refine ⟨.familyResolved, 43, (initAt_gives q _ _ _).goesTo fun _ _ => (initAt_gives q _ _ _).goesTo fun _ _ =>
      (command_gives q hl (by simpa [partsBytes] using hc)).goesTo fun _ _ => (initAt_gives q _ _ _).goesTo fun _ _ => ?_⟩
    rw [if_pos (by rw [idleBitSet_eq, hr])]
    exact .refl _

theorem mmcActivate_ready {k : Progress} (m : Nat) {l rest : List Byte} {r : Byte} (hr : r.getLsbD 0 = false)
    (hl : CommandReply s 1#8 r l) (hc : s.card = k.bytes ++ (partsBytes [.command 1#8 0x00000000#32 0x00#8 l] ++ rest)) :
    Plays s k (mmcActivateLoop (m + 1)) [.command 1#8 0x00000000#32 0x00#8 l] k.family none := by
  refine (initAt_plays q _ _ _).bind fun _ _ => (initAt_plays q _ _ _).bind fun _ _ =>
    (command_gives q hl (by simpa [partsBytes] using hc)).bind fun _ _ => (initAt_plays q _ _ _).bind fun _ _ => ?_
  rw [if_neg (by rw [idleBitSet_eq, hr]; decide)]
  exact initAt_plays q _ _ _

/-- FamilyResolved on an MMC before its loop. -/
theorem resolveFamily_mmc {k : Progress} (hm : k.family = .mmc)
    (h : ∀ k' : Progress, k'.bytes = k.bytes → k'.family = .mmc → Plays s k' (mmcActivateLoop s.cfg.activateTries) ps f o) :
    Plays s k resolveFamily ps f o := by
  refine (initAt_plays q _ _ _).bind fun _ _ => .get ?_
  rw [state_family, play_family, if_pos hm]
  exact (initAt_plays q _ _ _).bind fun _ _ => .get <| (setTries_gives _).bind fun _ _ => h _ (by simp [partsBytes]) hm

theorem resolveFamily_v1 {k : Progress} (hf : k.family = .sdscV1) : Plays s k resolveFamily [] .sdscV1 none := by
  refine (initAt_plays q _ _ _).bind fun _ _ => .get ?_
  rw [state_family, play_family, if_neg (by rw [hf]; decide)]
  refine (initAt_plays q _ _ _).bind fun _ _ => .get ?_
  rw [state_family, play_family, play_family, if_neg (by rw [hf]; decide), ← hf]
  exact .pure

theorem resolveFamily_v2 {k : Progress} (hf : k.family = .sdscV2) {l rest : List Byte} {r : Byte} {ocr : Vector Byte 4}
    (hl : CommandReply s 58#8 r l)
    (hc : s.card = k.bytes ++ (partsBytes [.command 58#8 0x00000000#32 0x00#8 l, .ext ocr] ++ rest)) :
    Plays s k resolveFamily [.command 58#8 0x00000000#32 0x00#8 l, .ext ocr] (if ocr[0].getLsbD 6 then .sdhc else .sdscV2) none := by
  rw [partsBytes_cons, List.append_assoc] at hc
  refine (initAt_plays q _ _ _).bind fun _ _ => .get ?_
  rw [state_family, play_family, if_neg (by rw [hf]; decide)]
  refine (initAt_plays q _ _ _).bind fun _ _ => .get ?_
  rw [state_family, play_family, play_family, if_pos hf]
  refine (initAt_plays q _ _ _).bind fun _ _ => (command_gives q hl (by simpa [partsBytes] using hc)).bind fun _ _ =>
    (initAt_plays q _ _ _).bind fun _ _ => (ext_gives q (by simpa [partsBytes] using hc)).bind fun _ _ =>
    (initAt_plays q _ _ _).bind fun _ _ => ?_
  rw [ocrHighCapacity_eq]
  split
  · exact (initAt_plays q _ _ _).bind fun _ _ => setFamily_gives _
  · rw [← hf]; exact .pure

/-- The activation loop and the resolution of the family, as one piece. -/
theorem resolvePhase_plays {k : Progress} (h : ResolvePhase s k.family f ps) {rest : List Byte}
    (hc : s.card = k.bytes ++ (partsBytes ps ++ rest)) : Plays s k (activate >>= fun _ => resolveFamily) ps f none := by
  obtain ⟨idle, hn, hidle, h⟩ := h
  have ready : ∀ {x : List Byte × List Byte} {qs : List Part}, ActivateAttempt s false x →
      s.card = k.bytes ++ (partsBytes ((idle ++ [x]).flatMap (activateParts k.family) ++ qs) ++ rest) →
      Plays s k activate ((idle ++ [x]).flatMap (activateParts k.family)) k.family none := by
    intro x qs hx hc
    rw [partsBytes_append, List.append_assoc, List.flatMap_append, List.flatMap_singleton] at hc
    rw [List.flatMap_append, List.flatMap_singleton]
    exact activate_skips q hn hidle (fun k' m hf hc => hf ▸ activate_ready q k.family m hx hc) hc
  cases f
  case none => exact h.elim
  case mmc =>
    obtain ⟨l, r, idle1, l1, hr, hl, hn1, hidle1, hl1, rfl⟩ := h
    obtain ⟨r1, hr1, hl1⟩ := hl1 l1 (List.mem_singleton_self l1)
    rw [List.map_append, List.map_eq_flatMap, partsBytes_append, List.append_assoc] at hc
    rw [List.map_append, List.map_eq_flatMap]
    refine (activate_skips q hn hidle (fun k' m _ hc => activate_mmc q _ m hr hl hc) hc).bind fun p n => ?_
    refine resolveFamily_mmc q rfl fun k' hb hf => ?_
    refine (mmcActivate_loop q).skips q (rest := rest) (fun k'' m hf' hc => hf' ▸ mmcActivate_ready q m hr1 hl1 hc) idle1 hidle1 hn1 hf ?_
    rw [hb, play_bytes, List.append_assoc]
    exact hc
  case sdscV1 =>
    obtain ⟨hcand, x, hx, rfl⟩ := h
    have := Plays.bind (g := fun _ => resolveFamily) (ready (qs := []) hx (by rw [List.append_nil]; exact hc)) fun p n =>
      resolveFamily_v1 q (k := k.play s ((idle ++ [x]).flatMap (activateParts k.family)) p n k.family) hcand
    rwa [List.append_nil] at this
  case sdscV2 =>
    obtain ⟨hcand, x, l, r, ocr, hx, hl, ho, rfl⟩ := h
    refine (ready hx hc).bind fun p n => ?_
    have := resolveFamily_v2 q (k := k.play s ((idle ++ [x]).flatMap (activateParts k.family)) p n k.family) hcand (ocr := ocr)
      (rest := rest) hl (by rw [hc, play_bytes, partsBytes_append, List.append_assoc, List.append_assoc])
    rwa [ho] at this
  case sdhc =>
    obtain ⟨hcand, x, l, r, ocr, hx, hl, ho, rfl⟩ := h
    refine (ready hx hc).bind fun p n => ?_
    have := resolveFamily_v2 q (k := k.play s ((idle ++ [x]).flatMap (activateParts k.family)) p n k.family) hcand (ocr := ocr)
      (rest := rest) hl (by rw [hc, play_bytes, partsBytes_append, List.append_assoc, List.append_assoc])
    rwa [ho] at this

/-! ### BlockLenFixed -/

/-- CMD16, unless the card is an SDHC, and the response decides. -/
theorem fixBlockLen_plays {k : Progress} (hf : k.family ≠ .sdhc) {l rest : List Byte} {r : Byte} (hl : CommandReply s 16#8 r l)
    (hc : s.card = k.bytes ++ (partsBytes [.command 16#8 0x00000200#32 0x00#8 l] ++ rest)) :
    Plays s k fixBlockLen [.command 16#8 0x00000200#32 0x00#8 l] k.family
      (if r = 0x00#8 then none else some .blocklenRejected) := by
  refine (initAt_plays q _ _ _).bind fun _ _ => .get ?_
  rw [state_family, play_family, if_neg hf]
  refine (initAt_plays q _ _ _).bind fun _ _ => (command_gives q hl (by simpa [partsBytes] using hc)).bind fun _ _ =>
    (initAt_plays q _ _ _).bind fun _ _ => ?_
  by_cases hr : r = 0x00#8
  · rw [if_pos (by simp [accepted, hr]), if_pos hr]
    exact .pure
  · rw [if_neg (by simp [accepted, hr]), if_neg hr]
    exact (initAt_plays q _ _ _).bind fun _ _ => .raise _

theorem blockLenPhase_plays {k : Progress} (h : BlockLenPhase s k.family ps) {rest : List Byte}
    (hc : s.card = k.bytes ++ (partsBytes ps ++ rest)) : Plays s k fixBlockLen ps k.family none := by
  by_cases hf : k.family = .sdhc
  · rw [BlockLenPhase, if_pos hf] at h
    subst h
    refine (initAt_plays q _ _ _).bind fun _ _ => .get ?_
    rw [state_family, play_family, if_pos hf]
    exact .pure
  · rw [BlockLenPhase, if_neg hf] at h
    obtain ⟨l, hl, rfl⟩ := h
    exact fixBlockLen_plays q hf hl hc

end

end Sys2Proof.Machine
end

section
/-! SUPPORT. INIT as a whole when nothing arrives from outside and the card's answers are known (42_initialization.md R142, R144;
60_exceptions.md R221). -/
namespace Sys2Proof.Machine

open Progress

/-! ### The stages together -/

/-- SpiIdle once the card is selected. -/
def findCard : Blk Unit := do
  initAt .spiIdle 6 1
  let n := (← get).cfg.goIdleTries
  setTries n
  spiIdleLoop n

/-- INIT from the select on, up to BlockLenFixed. -/
def classify : Blk Unit :=
  findCard >>= fun _ => voltageCheck >>= fun _ => (activate >>= fun _ => resolveFamily) >>= fun _ => fixBlockLen

theorem bodyInit_classify : bodyInit = (do
    initAt .rampUp 1 1
    clearCard
    initAt .rampUp 3 1
    fillers (← get).cfg.rampUpBytes
    initAt .spiIdle 5 1
    select
    classify
    initAt .ready 55 1
    setInitOk true
    initAt .ready 56 1) := by
  simp only [bodyInit, rampUp, spiIdle, classify, findCard, bind_assoc]

variable {s : State} {ps : List Part} {f : Family} {o : Option Cause}

section
variable (q : Quiet s)
include q

theorem findCard_plays {k : Progress}
    (h : ∀ k' : Progress, k'.bytes = k.bytes → k'.family = k.family → Plays s k' (spiIdleLoop s.cfg.goIdleTries) ps k.family o) :
    Plays s k findCard ps k.family o :=
  (initAt_plays q _ _ _).bind fun _ _ => .get <| (setTries_gives _).bind fun _ _ => h _ (by simp [partsBytes]) rfl

theorem findCard_passes {k : Progress} (h : IdlePhase s ps) {rest : List Byte} (hc : s.card = k.bytes ++ (partsBytes ps ++ rest)) :
    Plays s k findCard ps k.family none :=
  findCard_plays q fun _ hb hf => hf ▸ idlePhase_plays q h (hb ▸ hc)

/-- Every phase passes. -/
theorem classify_passes {k : Progress} {cand : Family} {p0 p8 p55 p16 : List Part} (h0 : IdlePhase s p0) (h8 : VoltagePhase s cand p8)
    (h55 : ResolvePhase s cand f p55) (h16 : BlockLenPhase s f p16) {rest : List Byte}
    (hc : s.card = k.bytes ++ (partsBytes (p0 ++ (p8 ++ (p55 ++ p16))) ++ rest)) :
    Plays s k classify (p0 ++ (p8 ++ (p55 ++ p16))) f none := by
  simp only [partsBytes_append, List.append_assoc] at hc
  exact (findCard_passes q h0 hc).bind fun _ _ => (voltagePhase_plays q h8 (by simpa using hc)).bind fun _ _ =>
    (resolvePhase_plays q h55 (by simpa using hc)).bind fun _ _ => blockLenPhase_plays q h16 (by simpa using hc)

/-- A phase fails (R221). -/
theorem classify_fails {k : Progress} {c : Cause} (h : InitFails s f ps c) (hf : k.family = .none) {rest : List Byte}
    (hc : s.card = k.bytes ++ (partsBytes ps ++ rest)) : Plays s k classify ps f (some c) := by
  cases c
  case idleTimeout =>
    obtain ⟨rfl, bad, hn, hbad, rfl⟩ := h
    rw [← hf]
    exact (findCard_plays q fun _ hb hf => hf ▸ spiIdle_fails q hn hbad (hb ▸ hc)).stop
  case vcheckMismatch =>
    obtain ⟨rfl, p0, bad, h0, hn, hbad, rfl⟩ := h
    simp only [partsBytes_append, List.append_assoc] at hc
    refine (findCard_passes q h0 hc).bind fun _ _ => Plays.stop <| voltageCheck_plays q fun k' hb hf' => ?_
    rw [← hn]
    exact (voltageCheck_loop q).exhausts q bad hbad (hf'.trans hf) (by rw [hb]; simpa using hc)
  case activateTimeout =>
    obtain ⟨p0, p8, idle, h0, h8, hn, hidle, rfl⟩ := h
    simp only [partsBytes_append, List.append_assoc] at hc
    rw [List.append_assoc]
    exact (findCard_passes q h0 hc).bind fun _ _ => (voltagePhase_plays q h8 (by simpa using hc)).bind fun _ _ =>
      (activate_fails q hn hidle (by simpa using hc)).stop.stop
  case mmcActivateTimeout =>
    obtain ⟨rfl, cand, p0, p8, idle, l, r, idle1, h0, h8, hn, hidle, hr, hl, hn1, hidle1, rfl⟩ := h
    rw [List.map_eq_flatMap] at hc ⊢
    simp only [partsBytes_append, List.append_assoc] at hc ⊢
    refine (findCard_passes q h0 hc).bind fun _ _ => (voltagePhase_plays q h8 (by simpa using hc)).bind fun _ _ => Plays.stop ?_
    rw [← List.append_assoc]
    refine (activate_skips q hn hidle (fun k' m _ hc => activate_mmc q _ m hr hl hc) (by simpa [partsBytes_append] using hc)).bind
      fun p n => resolveFamily_mmc q rfl fun k' hb hf => ?_
    rw [← hn1]
    exact (mmcActivate_loop q).exhausts q idle1 hidle1 hf (by rw [hb]; simpa [partsBytes_append] using hc)
  case blocklenRejected =>
    obtain ⟨hne, cand, p0, p8, p55, l, r, h0, h8, h55, hr, hl, rfl⟩ := h
    simp only [partsBytes_append, List.append_assoc] at hc ⊢
    refine (findCard_passes q h0 hc).bind fun _ _ => (voltagePhase_plays q h8 (by simpa using hc)).bind fun _ _ =>
      (resolvePhase_plays q h55 (by simpa using hc)).bind fun p n => ?_
    rw [← if_neg (c := r = 0x00#8) (t := none) (e := some Cause.blocklenRejected) hr]
    exact fixBlockLen_plays q hne hl (by simpa using hc)
  all_goals exact h.elim

end

/-! ### The run -/

/-- The state INIT runs on, INIT_OK cleared. -/
def initBase (s : State) : State := { started 0x2#4 s with initOk := false }

@[simp] theorem initBase_card (s : State) : (initBase s).card = s.card := rfl

/-- INIT has ramped up and selected the card. -/
def rampedUp (s : State) (ramp : List Byte) : Progress :=
  (({ fresh s with family := .none, seq := .init .rampUp 3 1 }.hear ramp (pollEvents ramp)).goTo (.init .spiIdle 5 1)).select

@[simp] theorem rampedUp_bytes (s : State) (ramp : List Byte) : (rampedUp s ramp).bytes = ramp := by simp [rampedUp]

/-- INIT up to its select (R142). -/
theorem bodyInit_rampsUp (q : Quiet s) {ramp rest : List Byte} (hl : ramp.length = s.cfg.rampUpBytes) (hc : s.card = ramp ++ rest) :
    bodyInit (started 0x2#4 s) = (do
      classify
      initAt .ready 55 1
      setInitOk true
      initAt .ready 56 1 : Blk Unit) ((rampedUp (initBase s) ramp).state (initBase s)) := by
  let k₀ : Progress := { fresh (initBase s) with family := .none, seq := .init .rampUp 3 1 }
  have qb : Quiet (initBase s) := q
  rw [bodyInit_classify]
  refine (blk_bind_ok (initAt_quiet (s := started 0x2#4 s) q _ _ _) _).trans ?_
  refine (blk_bind_ok (initAt_quiet (s := { initBase s with family := .none, seq := .init .rampUp 1 2 }) q .rampUp 3 1) _).trans ?_
  refine (blk_bind_ok (blk_get _) _).trans ((blk_bind_ok (fillers_state (k := k₀) qb hc hl) _).trans ?_)
  exact (blk_bind_ok (at_state qb (.init .spiIdle 5 1)) _).trans (blk_bind_ok (select_state qb) _)

/-- What INIT leaves: its outcome, INIT_OK, the family, and what the parts it played wrote. -/
def initLeaves (s : State) (ramp : List Byte) (ps : List Part) (f : Family) (r : Result) (ok : Bool) (trail : Byte) (rest : List Byte)
    (n : Nat) : State :=
  complete r { latch 0x2#4 s with
    initOk := ok, family := f, cs := false, card := rest, tries := n, lastR1 := ps.foldl Part.lastR1 s.lastR1,
    ext := ps.foldl Part.lastExt s.ext, ext32 := partsExt32 s ps, xchgs := s.xchgs + (ramp.length + (partsBytes ps).length + 1),
    trace := (pollEvents ramp ++ selectEvents ++ partsEvents s ps ++ releaseEvents trail).reverse ++ s.trace }

/-- The end of INIT's run, from the parts it played. -/
theorem finishRun_played (q : Quiet s) {ramp rest : List Byte} {trail : Byte} (hc : s.card = ramp ++ (partsBytes ps ++ trail :: rest))
    (r : Result) (ok : Bool) (p : Seq) (n : Nat) :
    finishRun r { ((rampedUp (initBase s) ramp).play (initBase s) ps p n f).state (initBase s) with initOk := ok } =
      initLeaves s ramp ps f r ok trail rest n := by
  let k := (rampedUp (initBase s) ramp).play (initBase s) ps p n f
  let t : State := { k.state (initBase s) with initOk := ok }
  have card : t.card = trail :: rest := card_eq (k := k) (s := initBase s) (l := [trail]) (by simpa [k] using hc)
  have last : s.card.drop (ramp.length + ((partsBytes ps).length + 1)) = rest := by
    rw [hc, ← Nat.add_assoc, ← List.drop_drop, ← List.drop_drop, List.drop_left, List.drop_left]; rfl
  refine (finishRun_selected (s := t) q rfl r card).trans ?_
  simp [initLeaves, complete, released, t, k, state, play, rampedUp, hear, goTo, Progress.select, fresh, initBase, started, latch,
    releaseEvents, partsEvents, partsExt32, last, Nat.add_assoc]

theorem exec_init_passes (q : Quiet s) (hb : s.busy = false) {ramp rest : List Byte} {trail : Byte}
    (hl : ramp.length = s.cfg.rampUpBytes) (hc : s.card = ramp ++ (partsBytes ps ++ trail :: rest))
    (h : Plays (initBase s) (rampedUp (initBase s) ramp) classify ps f none) :
    ∃ n, exec .init s = .next (initLeaves s ramp ps f .ok true trail rest n) := by
  obtain ⟨p, n, e⟩ := h
  refine ⟨n, congrArg Host.Outcome.next ((start_runs hb bodyInit (preCheck_always (.inr (.inl rfl)) _)).trans ?_)⟩
  refine (run_ok ((bodyInit_rampsUp q hl hc).trans ?_)).trans (finishRun_played (p := .init .ready 56 1) q hc .ok true n)
  refine (blk_bind_ok e _).trans ((blk_bind_ok (at_state (s := initBase s) q (.init .ready 55 1)) _).trans ?_)
  exact at_quiet (s := { ((rampedUp (initBase s) ramp).play (initBase s) ps (.init .ready 55 1) n f).state (initBase s) with
    initOk := true }) q (.init .ready 56 1)

theorem exec_init_fails (q : Quiet s) (hb : s.busy = false) {ramp rest : List Byte} {trail : Byte} {c : Cause}
    (hl : ramp.length = s.cfg.rampUpBytes) (hc : s.card = ramp ++ (partsBytes ps ++ trail :: rest))
    (h : Plays (initBase s) (rampedUp (initBase s) ramp) classify ps f (some c)) :
    ∃ n, exec .init s = .next (initLeaves s ramp ps f c.outcome false trail rest n) := by
  obtain ⟨p, n, e⟩ := h
  refine ⟨n, congrArg Host.Outcome.next ((start_runs hb bodyInit (preCheck_always (.inr (.inl rfl)) _)).trans ?_)⟩
  exact (run_raised ((bodyInit_rampsUp q hl hc).trans (blk_bind_error e _))).trans (finishRun_played (p := p) q hc c.outcome false n)

/-- Settles O20: the phases pass one after the other. -/
theorem initClassifies : Obligations.InitClassifies := by
  intro s cand f ramp p0 p8 p55 p16 trail rest q hb hl h0 h8 h55 h16 hc
  simp only [List.append_assoc] at hc
  obtain ⟨n, e⟩ := exec_init_passes q hb hl hc (classify_passes (s := initBase s) q h0 h8 h55 h16
    (by rw [rampedUp_bytes]; exact hc))
  exact ⟨_, e, by simp only [initLeaves, List.append_assoc]; rfl⟩

/-- Settles O21: the phases before the failing one pass. -/
theorem initFailures : Obligations.InitFailures := by
  intro s c f ramp ps trail rest q hb hl h hc
  simp only [List.append_assoc] at hc
  have hfail : c.outcome = .fail := by
    cases c
    case familyUnsupported => exact h.elim
    all_goals rfl
  obtain ⟨n, e⟩ := exec_init_fails q hb hl hc (classify_fails (s := initBase s) q h rfl (by rw [rampedUp_bytes]; exact hc))
  rw [hfail] at e
  exact ⟨_, e, rfl⟩

end Sys2Proof.Machine
end

section
/-! SUPPORT. A requester's write of an operand register while an operation runs (10_state.md R23 to R25, R35): the operation goes on as
if nothing had arrived, and the register holds the value from the statement or event on before which the write lands. -/
namespace Sys2Proof.Machine

/-! ### States with other operand registers -/

/-- `t` with its operand registers and the inputs to come changed, each from what it was. -/
def redo (a b c : Word → Word) (d : List Arrival → List Arrival) (t : State) : State :=
  handed t (a t.arg0) (b t.arg1) (c t.bufbase) (d t.inbox)

/-- A result, its state changed. -/
def moved {α : Type} (g : State → State) : EStateM.Result Stop State α → EStateM.Result Stop State α
  | .ok a t => .ok a (g t)
  | .error e t => .error e (g t)

/-- The operand registers and the inputs to come are the same. -/
def SameInputs (s t : State) : Prop := t.arg0 = s.arg0 ∧ t.arg1 = s.arg1 ∧ t.bufbase = s.bufbase ∧ t.inbox = s.inbox

variable {α β : Type} {m : Blk α} {t : State}

theorem handed_self (t : State) : handed t t.arg0 t.arg1 t.bufbase t.inbox = t := rfl

theorem Keeping.sameInputs {f : State → State} (h : Keeping f) (t : State) : SameInputs t (f t) := by
  have e := h t t.arg0 t.arg1 t.bufbase t.inbox
  rw [handed_self] at e
  exact ⟨(congrArg State.arg0 e).trans rfl, (congrArg State.arg1 e).trans rfl, (congrArg State.bufbase e).trans rfl,
    (congrArg State.inbox e).trans rfl⟩

/-- A piece that neither depends on them nor touches them. -/
structure Smooth (m : Blk α) : Prop where
  handed : ∀ s a0 a1 bb i, m (handed s a0 a1 bb i) = moved (fun t => Machine.handed t a0 a1 bb i) (m s)
  inputs : ∀ s, SameInputs s (alone m s)

theorem Smooth.redo (h : Smooth m) (a b c : Word → Word) (d : List Arrival → List Arrival) (t : State) :
    m (redo a b c d t) = moved (redo a b c d) (m t) := by
  have hi := h.inputs t
  rw [Machine.redo, h.handed]
  cases hm : m t with
  | ok x u =>
    rw [alone_ok hm] at hi
    obtain ⟨h1, h2, h3, h4⟩ := hi
    simp only [moved, Machine.redo, h1, h2, h3, h4]
  | error e u =>
    rw [alone_error hm] at hi
    obtain ⟨h1, h2, h3, h4⟩ := hi
    simp only [moved, Machine.redo, h1, h2, h3, h4]

theorem Act.smooth {l : Label} {g : State → α} {f : State → State} (h : Act l g f) : Smooth (act g f) where
  handed s a0 a1 bb i := by rw [act, h.deaf, h.keeping]; rfl
  inputs s := h.keeping.sameInputs s

theorem modify_smooth {f : State → State} (h : Keeping f) : Smooth (modify f : Blk PUnit) where
  handed s a0 a1 bb i := congrArg (EStateM.Result.ok _) (h s a0 a1 bb i)
  inputs s := h.sameInputs s

theorem Move.sameInputs {l : Label} (ho : l ≠ .outside) (hr : l ≠ .reset) {s t : State} (h : Move l s t) : SameInputs s t := by
  obtain ⟨h1, h2, h3, -⟩ := (h.unchanged hr).regs (by simpa using ho.symm)
  exact ⟨h1, h2, h3, (h.frame hr).2 ho⟩

theorem racePick_handed (s : State) (a0 a1 bb : Word) (i : List Arrival) (cur : Byte) (olds : List Byte) :
    racePick (handed s a0 a1 bb i) cur olds = ((racePick s cur olds).1, handed (racePick s cur olds).2 a0 a1 bb i) := by
  unfold racePick
  split <;> rfl

/-- What a read gives once it is admitted, or that it is not (R51, R55, R64). -/
theorem readNow_eq (a : Nat) (s : State) : readNow a s =
    let r := racePick s (memGet s.mem (bufAddr s a)) (oldValues (bufAddr s a) s.reqOld)
    if inRegions s.cfg.noRead (bufAddr s a) then .error .stuck s
    else .ok r.1 { r.2 with trace := .memRead (bufAddr s a) r.1 :: r.2.trace } := by
  rw [readNow, blk_bind, blk_get]
  simp only []
  split <;> rfl

theorem readNow_smooth (a : Nat) : Smooth (readNow a) where
  handed s a0 a1 bb i := by
    rw [readNow_eq, readNow_eq]
    simp only [racePick_handed]
    show (if inRegions s.cfg.noRead (bufAddr s a) then _ else _) = _
    split
    · rfl
    · rfl
  inputs s := by
    obtain e | ⟨v, t, e, h⟩ := readNow_cases a s
    · rw [alone_error e]; exact ⟨rfl, rfl, rfl, rfl⟩
    · rw [alone_ok e]; exact h.move.sameInputs (by decide) (by decide)

/-- What a write leaves once it is admitted, or that it is not (R51, R55, R64). -/
theorem writeNow_eq (a : Nat) (v : Byte) (s : State) : writeNow a v s =
    let cur := memGet s.mem (bufAddr s a)
    let raced := !(oldValues (bufAddr s a) s.reqOld).isEmpty
    let r := raceWrite s cur v raced
    let gone := (bufAddr s a, loser cur v r.1)
    if inRegions s.cfg.noWrite (bufAddr s a) then .error .stuck s
    else .ok () { r.2 with
      blkOld := gone :: s.blkOld, reqOld := if raced then gone :: s.reqOld else s.reqOld, mem := memPut s.mem (bufAddr s a) r.1,
      trace := .memWrite (bufAddr s a) v :: r.2.trace } := by
  rw [writeNow, blk_bind, blk_get]
  simp only []
  split <;> rfl

theorem writeNow_smooth (a : Nat) (v : Byte) : Smooth (writeNow a v) where
  handed s a0 a1 bb i := by
    rw [writeNow_eq, writeNow_eq]
    simp only [raceWrite, racePick_handed]
    show (if inRegions s.cfg.noWrite (bufAddr s a) then _ else _) = _
    split
    · rfl
    · rfl
  inputs s := by
    obtain e | ⟨t, e, h⟩ := writeNow_cases a v s
    · rw [alone_error e]; exact ⟨rfl, rfl, rfl, rfl⟩
    · rw [alone_ok e]; exact h.move.sameInputs (by decide) (by decide)

/-! ### Where the write lands -/

/-- `t` with the write done. -/
def taken (offset : Nat) (v : Word) (t : State) : State :=
  redo (fun x => if offset = 0x08 then v else x) (fun x => if offset = 0x0C then v else x) (fun x => if offset = 0x10 then v else x)
    id t

/-- The write of an operand register, `j` statements and events away. -/
def operandWrite (offset : Nat) (v : Word) (j : Nat) : Arrival := ⟨j, .access ⟨offset, 32, some v⟩⟩

/-- `t` with the write still to come. -/
def pending (offset : Nat) (v : Word) (j : Nat) (t : State) : State := redo id id id (fun _ => [operandWrite offset v j]) t

/-- The write lands before one of the `n` statements and events of a piece that runs on `t`, and then stands; or it is still to come. -/
structure Lands (offset : Nat) (v : Word) (n : Nat) (m : Blk α) (t : State) : Prop where
  stands : m (taken offset v t) = moved (taken offset v) (m t)
  lands : ∀ j, m (pending offset v j t) = moved (if j < n then taken offset v else pending offset v (j - n)) (m t)

variable {offset : Nat} {v : Word}

theorem Smooth.lands (h : Smooth m) (t : State) : Lands offset v 0 m t := ⟨h.redo _ _ _ _ t, fun _ => h.redo _ _ _ _ t⟩

theorem Lands.bind_ok {n n' : Nat} {f : α → Blk β} {a : α} {u : State} (h : Lands offset v n m t) (e : m t = .ok a u)
    (h' : Lands offset v n' (f a) u) : Lands offset v (n + n') (m >>= f) t where
  stands := by rw [blk_bind, h.stands, blk_bind, e]; exact h'.stands
  lands j := by
    rw [blk_bind, h.lands, blk_bind, e]
    by_cases hj : j < n
    · rw [if_pos hj, if_pos (by omega)]; exact h'.stands
    · rw [if_neg hj]
      refine (h'.lands (j - n)).trans ?_
      by_cases hj' : j - n < n'
      · rw [if_pos hj', if_pos (by omega)]
      · rw [if_neg hj', if_neg (by omega), Nat.sub_sub]

theorem Lands.bind_error {n : Nat} {f : α → Blk β} {x : Stop} {u : State} (h : Lands offset v n m t) (e : m t = .error x u) :
    Lands offset v n (m >>= f) t where
  stands := by rw [blk_bind, h.stands, blk_bind, e]; rfl
  lands j := by rw [blk_bind, h.lands, blk_bind, e]; rfl

section Operand
variable (ho : offset = 0x08 ∨ offset = 0x0C ∨ offset = 0x10)
include ho

/-- A write of an operand register writes it (R23 to R25). -/
theorem writeReg_operand (t : State) : writeReg t offset v = taken offset v t := by
  obtain rfl | rfl | rfl := ho <;> rfl

/-- It is an access of the interface that starts nothing (R20, R21, R29). -/
theorem operandWrite_starts_nothing :
    Access.inInterface ⟨offset, 32, some v⟩ = true ∧ Access.request? ⟨offset, 32, some v⟩ = none := by
  refine ⟨?_, if_neg fun h => ?_⟩
  · obtain rfl | rfl | rfl := ho <;> simp [Access.inInterface]
  · have h0 : offset = 0 := h.1
    omega

/-- If nothing comes before it, it is served at once. -/
theorem sync_operand (t : State) :
    sync (pending offset v 0 t) = .ok () { writeReg (pending offset v 0 t) offset v with inbox := [] } := by
  obtain ⟨hi, hr⟩ := operandWrite_starts_nothing (v := v) ho
  show serve [operandWrite offset v 0] _ = _
  simp only [operandWrite, serve, hi, hr]
  rfl

/-- It lands before the next statement or event, if nothing comes before it. -/
theorem sync_lands (q : Quiet t) : Lands offset v 1 sync t where
  stands := by rw [sync_quiet q]; exact sync_quiet (s := taken offset v t) q
  lands j := by
    rw [sync_quiet q]
    cases j with
    | succ j => rfl
    | zero =>
      rw [sync_operand ho, writeReg_operand ho, if_pos (by decide), ← show (taken offset v t).inbox = [] from q]
      rfl

/-! ### The pieces of an operation -/

/-- The write can land before as many statements and events of a piece as it makes events, or before more. -/
def Latches (offset : Nat) (v : Word) (m : Blk α) (t : State) : Prop :=
  ∃ n, Lands offset v n m t ∧ (alone m t).trace.length ≤ t.trace.length + n

omit ho in
theorem Smooth.latches (h : Smooth m) (e : (alone m t).trace.length ≤ t.trace.length) : Latches offset v m t := ⟨0, h.lands t, e⟩

/-- An event. -/
theorem landing_latches (q : Quiet t) (h : Smooth m) (e : (alone m t).trace.length ≤ t.trace.length + 1) :
    Latches offset v (sync >>= fun _ => m) t :=
  ⟨1, (sync_lands ho q).bind_ok (n' := 0) (sync_quiet q) (h.lands t), by
    rwa [show alone (sync >>= fun _ => m) t = alone m t from alone_congr (blk_bind_ok (sync_quiet q) _)]⟩

omit ho in
/-- A piece after another adds its landing points and events to the other's. -/
theorem Latches.bind {n : Nat} {f : α → Blk β} (h : Lands offset v n m t) (hf : ∀ a u, m t = .ok a u → Latches offset v (f a) u) :
    ∃ n', Lands offset v n' (m >>= f) t ∧ (alone (m >>= f) t).trace.length + n ≤ (alone m t).trace.length + n' := by
  cases hm : m t with
  | error x u =>
    refine ⟨n, h.bind_error hm, ?_⟩
    rw [alone_error hm, alone_error (blk_bind_error hm f)]
  | ok a u =>
    obtain ⟨n', h', e'⟩ := hf a u hm
    refine ⟨n + n', h.bind_ok hm h', ?_⟩
    rw [alone_ok hm, show alone (m >>= f) t = alone (f a) u from alone_congr (blk_bind_ok hm f)]
    omega

variable {I F : State → Prop} {L : List Label} {W : Nat → Prop}

/-- Every built piece is so where nothing arrives. -/
theorem Built.latches {m : Blk α} (h : Built I L W m) (k : Holds L W F fun _ => False) (hI : ∀ s, F s → I s) (hq : ∀ s, F s → Quiet s) :
    ∀ t, F t → Latches offset v m t := by
  induction h with
  | pure a => exact fun t _ => Smooth.latches ⟨fun _ _ _ _ _ => rfl, fun _ => ⟨rfl, rfl, rfl, rfl⟩⟩ (Nat.le_refl _)
  | @bind _ _ m f hm _ ihm ihf =>
    intro t ht
    obtain ⟨n, hn, e⟩ := ihm t ht
    obtain ⟨n', hn', e'⟩ := Latches.bind (f := f) hn fun a u hu => ihf a u (by
      have left := hm.leaves k hI t ht
      rw [hu] at left
      cases left with | ok h => exact h)
    exact ⟨n', hn', by omega⟩
  | get deaf hf ih =>
    intro t ht
    obtain ⟨n, hn, e⟩ := ih t (hI t ht) t ht
    refine ⟨n, ⟨?_, fun j => ?_⟩, e⟩
    · exact (congrFun (deaf t _ _ _ _) _).trans hn.stands
    · exact (congrFun (deaf t _ _ _ _) _).trans (hn.lands j)
  | sync => exact fun t ht => ⟨1, sync_lands ho (hq t ht), by rw [alone_ok (sync_quiet (hq t ht))]; omega⟩
  | own l hl hquiet h =>
    refine fun t _ => h.smooth.latches (Nat.le_of_eq ?_)
    have silent : quietLabels ⊆ silentMoves := by decide
    exact congrArg List.length ((h.moves t).silent (silent hquiet)).trace
  | @count f h keeping =>
    refine fun t _ => (modify_smooth keeping).latches (Nat.le_of_eq ?_)
    obtain ⟨a, b, e⟩ := h t
    exact congrArg List.length (show (f t).trace = t.trace by rw [e])
  | event l hl hb h one => exact fun t ht => landing_latches ho (hq t ht) h.smooth (Nat.le_of_eq (one t))
  | raise c hc => exact fun t _ => Smooth.latches ⟨fun _ _ _ _ _ => rfl, fun _ => ⟨rfl, rfl, rfl, rfl⟩⟩ (Nat.le_refl _)
  | memRead hm a =>
    refine fun t ht => memRead_eq a ▸ landing_latches ho (hq t ht) (readNow_smooth a) ?_
    obtain e | ⟨x, u, e, y, p, n, rfl, -⟩ := readNow_cases a t
    · rw [alone_error e]; omega
    · rw [alone_ok e]; exact Nat.le_refl _
  | memWrite hm a ha x =>
    refine fun t ht => memWrite_eq a x ▸ landing_latches ho (hq t ht) (writeNow_smooth a x) ?_
    obtain e | ⟨u, e, y, z, w, p, n, o, rfl, -⟩ := writeNow_cases a x t
    · rw [alone_error e]; omega
    · rw [alone_ok e]; exact Nat.le_refl _

/-- So is a program, which makes fewer events than the write can land before: its first statement makes none. -/
theorem Program.latches {body : Blk Unit} (h : Program I L W body) (k : Holds L W F fun _ => False) (hI : ∀ s, F s → I s)
    (hq : ∀ s, F s → Quiet s) (ht : F t) :
    ∃ n, Lands offset v n body t ∧ (alone body t).trace.length < t.trace.length + n := by
  obtain ⟨p, f, rfl, hs, hf⟩ := h
  have first : at_ p t = .ok () { t with seq := p } := sync_quiet (s := { t with seq := p }) (hq t ht)
  have moved : Smooth (moveSeq p) := modify_smooth fun _ _ _ _ _ => rfl
  have lands : Lands offset v 1 (at_ p) t :=
    (moved.lands t).bind_ok (n' := 1) (a := PUnit.unit) (u := { t with seq := p }) rfl (sync_lands ho (hq t ht))
  obtain ⟨n, hn, e⟩ := Latches.bind (f := f) lands fun a u hu => by
    obtain ⟨-, rfl⟩ := EStateM.Result.ok.inj (first.symm.trans hu)
    exact (hf a).latches ho k hI hq _ (k.moves .seq hs (by decide) t _ ⟨p, rfl⟩ ht)
  rw [alone_ok first] at e
  exact ⟨n, hn, e⟩

/-! ### The run -/

/-- The epilogue and what completes the operation (R9, R224). -/
def finish (o : Result) : Blk Unit := epilogue >>= fun _ => modify (complete o)

omit ho in
theorem finishRun_eq (o : Result) (s : State) : finishRun o s = alone (finish o) s := by
  rw [finishRun, finish, alone, blk_bind]
  cases epilogue s <;> rfl

theorem finish_latches (k : Holds epilogueLabels W F fun _ => False) (hq : ∀ s, F s → Quiet s) (o : Result) (ht : F t) :
    Latches offset v (finish o) t := by
  have completes : Smooth (modify (complete o) : Blk PUnit) := modify_smooth fun _ _ _ _ _ => rfl
  obtain ⟨n, hn, e⟩ := (epilogue_built (I := fun _ => True) (List.Subset.refl _)).latches ho k (fun _ _ => trivial) hq t ht
  obtain ⟨n', hn', e'⟩ := Latches.bind (f := fun _ => modify (complete o)) hn fun _ u _ => completes.latches (Nat.le_refl u.trace.length)
  exact ⟨n', hn', by rw [finish]; omega⟩

omit ho in
theorem alone_moved {g : State → State} {w : State} (h : m w = moved g (m t)) : alone m w = g (alone m t) := by
  cases hm : m t with
  | ok a u => rw [hm] at h; rw [alone_ok h, alone_ok hm]
  | error x u => rw [hm] at h; rw [alone_error h, alone_error hm]

/-- The write lands before one of `n` statements and events of a whole run, and then stands; or it is still to come. -/
def LandsIn (offset : Nat) (v : Word) (n : Nat) (g : State → State) (t : State) : Prop :=
  ∀ j, g (pending offset v j t) = if j < n then taken offset v (g t) else pending offset v (j - n) (g t)

omit ho in
theorem Lands.landsIn {n : Nat} (h : Lands offset v n m t) : LandsIn offset v n (alone m) t := fun j => by
  rw [alone_moved (h.lands j), ite_apply]

omit ho in
/-- Where a body ends where the epilogue starts, so does the run. -/
theorem Lands.run {n n' : Nat} {body : Blk Unit} {o : Result} {u : State} (h : Lands offset v n body t) (h' : Lands offset v n' (finish o) u)
    (e : ∀ (g : State → State) (w : State), body w = moved g (body t) → run body w = alone (finish o) (g u)) :
    LandsIn offset v (n + n') (run body) t := by
  have plain : Machine.run body t = alone (finish o) u := e id t (by cases body t <;> rfl)
  intro j
  rw [e _ _ (h.lands j), plain]
  by_cases hj : j < n
  · rw [if_pos hj, if_pos (by omega)]; exact alone_moved h'.stands
  · rw [if_neg hj, h'.landsIn, Nat.sub_sub]
    exact if_congr (by omega) rfl rfl

theorem run_latches {body : Blk Unit} (h : Program I L W body) (k : Holds L W F fun _ => False)
    (ke : Holds epilogueLabels W F fun _ => False) (hI : ∀ s, F s → I s) (hq : ∀ s, F s → Quiet s) (ht : F t) :
    ∃ n, (run body t).trace.length < t.trace.length + n ∧ LandsIn offset v n (run body) t := by
  obtain ⟨n, hn, e⟩ := h.latches ho (v := v) k hI hq ht
  have left := h.built.leaves k hI t ht
  have finishes : ∀ (o : Result) (u : State), F u → alone body t = u →
      (∀ (g : State → State) (w : State), body w = moved g (body t) → run body w = alone (finish o) (g u)) →
      ∃ n, (run body t).trace.length < t.trace.length + n ∧ LandsIn offset v n (run body) t := fun o u hu hbu hrun => by
    obtain ⟨n', hn', e'⟩ := finish_latches ho (v := v) ke hq o hu
    refine ⟨n + n', ?_, hn.run hn' hrun⟩
    rw [hrun id t (by cases body t <;> rfl), id]
    rw [hbu] at e
    omega
  cases hb : body t with
  | ok a u =>
    rw [hb] at left
    cases left with
    | ok hu => exact finishes .ok u hu (alone_ok hb) fun g w hw => by rw [hb] at hw; rw [run_ok hw, finishRun_eq]
  | error x u =>
    rw [hb] at left
    cases left with
    | @raised c _ _ hu =>
      exact finishes c.outcome u hu (alone_error hb) fun g w hw => by rw [hb] at hw; rw [run_raised hw, finishRun_eq]
    | stuck _ hu =>
      rw [alone_error hb] at e
      refine ⟨n, by rw [run_stuck hb]; exact e, fun j => ?_⟩
      have hj := hn.lands j
      rw [hb] at hj
      rw [run_stuck hj, run_stuck hb, ite_apply]
    | abandoned ha => exact ha.elim

end Operand

/-- Settles O53: but for its landing points no piece of an operation reads the operand registers or what is still to come. -/
theorem operandsAreLatched : Obligations.OperandsAreLatched := by
  intro i op s t evs offset v hop q hb hc ho ht hev
  obtain ⟨body, he, hp⟩ := exec_program hop
  have hp : Program (Underway i s) (labelsOf i) (StoredBy i s) body := hp.elim (fun hn => absurd hc (hn s)) fun h => h s
  have runs : ∀ k, exec i (pending offset v k s) = .next (run body (pending offset v k (started op s))) := fun k => by
    rw [he, start_runs (s := pending offset v k s) hb body hc]; rfl
  have plain : t = run body (started op s) := by
    rw [he, start_runs hb body hc] at ht; exact (Host.Outcome.next.inj ht).symm
  have calm : Holds (labelsOf i ++ epilogueLabels) (StoredBy i s)
      (Calm (labelsOf i ++ epilogueLabels) (StoredBy i s) (started op s)) fun _ => False := calm_holds _
  have noFamily : i ≠ .init → Label.family ∉ labelsOf i ++ epilogueLabels := fun hi => by simp [labelsOf_family hi, epilogueLabels]
  have k := calm.underway (i := i) (s₀ := s) noFamily
  obtain ⟨n, hlen, hn⟩ := run_latches ho (v := v) hp (k.mono (by simp)) (k.mono (by simp)) (fun _ h => h.1) (fun _ h => h.2.quiet)
    (t := started op s) ⟨⟨rfl, rfl, fun _ => rfl⟩, .refl _ _, q, rfl, ⟨rfl, rfl⟩, fun _ _ => rfl⟩
  obtain ⟨u, hu, hcalm⟩ := exec_calm (L := labelsOf i ++ epilogueLabels) hop q (by simp) (calm.mono (by simp)).finishes
  obtain rfl : u = t := Host.Outcome.next.inj (hu.symm.trans ht)
  have outside : Label.outside ∉ labelsOf i ++ epilogueLabels := by simp [labelsOf_owner hop, epilogueLabels]
  obtain ⟨h0, h1, h2⟩ : u.arg0 = s.arg0 ∧ u.arg1 = s.arg1 ∧ u.bufbase = s.bufbase := by
    obtain rfl | ⟨w, hw, rfl | ⟨o, rfl⟩⟩ := hcalm
    · exact ⟨rfl, rfl, rfl⟩
    all_goals
      obtain ⟨h0, h1, h2, -⟩ := hw.regs outside
      exact ⟨h0, h1, h2⟩
  rw [← plain] at hlen
  refine ⟨n, ?_, fun k => ⟨fun hk => (runs k).trans ?_, fun hk => (runs k).trans ?_⟩⟩
  · rw [hev, List.length_append, List.length_reverse] at hlen
    have : (started op s).trace.length = s.trace.length := rfl
    omega
  · rw [hn k, if_pos hk, ← plain, ← h0, ← h1, ← h2]; rfl
  · rw [hn k, if_neg (by omega), ← plain]; rfl

end Sys2Proof.Machine
end

section
/-! SUPPORT. The token rows (30_encoding.md R81) and address-adjust (20_memory.md R69). -/
namespace Sys2Proof.Machine

/-- Settles O47: a token row is one exchange. -/
theorem tokensSent : Obligations.TokensSent := fun _ q =>
  ⟨congrArg _ (alone_ok (xchg_any q _)), congrArg _ (alone_ok (xchg_any q _)), congrArg _ (alone_ok (xchg_any q _))⟩

/-- Every family but SDHC takes the byte address: the sector index times 512, in 32 bits (R69). -/
theorem adjust_toNat {f : Family} (hf : f ≠ .sdhc) (x : Word) : (adjust f x).toNat = x.toNat * 512 % 2 ^ 32 := by
  have shift : adjust f x = x <<< 9 := by
    cases f with
    | sdhc => exact absurd rfl hf
    | none | mmc | sdscV1 | sdscV2 => rfl
  rw [shift, BitVec.toNat_shiftLeft, Nat.shiftLeft_eq]

/-- Settles O50: 512 divides 2^32, so the wrap keeps a multiple of 512 one. -/
theorem addressAdjust : Obligations.AddressAdjust := by
  refine fun f x => ⟨fun hf => by rw [hf]; rfl, fun hf => ⟨adjust_toNat hf x, ?_⟩⟩
  rw [adjust_toNat hf, Nat.mod_mod_of_dvd _ (by decide)]
  exact Nat.mul_mod_left _ _

end Sys2Proof.Machine
end

section
/-! SUPPORT. A data operation phase by phase when nothing arrives from outside and the card's answers are known (43_block_transfer.md
R170 to R176, 44_register_ops.md R200, R203): what a passing phase makes of the state, and how a body that performs a list of phases
runs through them or is stuck in one. -/
namespace Sys2Proof.Machine

/-! ### A state after parts -/

/-- `t` after this part. -/
def Part.run (t : State) (p : Part) : State :=
  { t with
    card := t.card.drop p.bytes.length, xchgs := t.xchgs + p.bytes.length,
    trace := (p.events t.cfg.bufAddrWidth t.lBuf.toNat t.mem).reverse ++ t.trace, lastR1 := p.lastR1 t.lastR1,
    lastDresp := p.lastDresp t.lastDresp, mem := p.store t.cfg.bufAddrWidth t.lBuf.toNat t.mem }

/-- The try counter after the phase passes in this part (R39; log 26). -/
def Phase.tries (t : State) (p : Part) : Phase → Nat
  | .ready => t.cfg.idleWaitTries - p.bytes.length
  | .command idx _ => t.cfg.cmdRespTries - (p.bytes.length - if idx = 12#8 then 7 else 6)
  | .receive len _ => t.cfg.tokenWaitTries - (p.bytes.length - (len + 2))
  | .busy bound => bound - p.bytes.length
  | .gap _ | .send _ _ => t.tries

/-- The byte counter after the phase passes (R39; log 26). -/
def Phase.byteIdx (t : State) : Phase → Nat
  | .receive (n + 1) _ => n
  | .send _ _ => 511
  | .receive 0 _ | .ready | .command _ _ | .gap _ | .busy _ => t.byteIdx

/-- `t` after the phase passes in this part. -/
def Phase.run (t : State) (ph : Phase) (p : Part) : State := { p.run t with tries := ph.tries t p, byteIdx := ph.byteIdx t }

/-- `t` after consecutive phases pass in these parts. -/
def runs : State → List Phase → List Part → State
  | t, ph :: phs, p :: ps => runs (ph.run t p) phs ps
  | t, [], _ | t, _ :: _, [] => t

/-! ### States up to hidden fields -/

/-- `v` with the hidden fields of `u` that no claim speaks of: SEQ, CSD_SHADOW and the record of overwritten bytes. -/
def near (v u : State) : State := { v with seq := u.seq, csdShadow := u.csdShadow, blkOld := u.blkOld }

/-- `u` is `v` but for these. -/
def Near (u v : State) : Prop := u = near v u

/-- `v` with the counters and RES of `u` as well. -/
def loose (v u : State) : State := { near v u with tries := u.tries, sector := u.sector, byteIdx := u.byteIdx, res := u.res }

/-- `u` is `v` but for these. -/
def Loose (u v : State) : Prop := u = loose v u

variable {s t u v w : State} {p : Part} {ps : List Part} {ph : Phase} {phs : List Phase} {α β : Type}

theorem Near.refl (u : State) : Near u u := rfl

theorem Near.trans (h : Near u v) (k : Near v w) : Near u w :=
  calc u = near v u := h
    _ = near (near w v) u := congrArg (near · u) k
    _ = near w u := rfl

theorem Near.run (h : Near u v) (ph : Phase) (p : Part) : Near (ph.run u p) (ph.run v p) :=
  calc ph.run u p = ph.run (near v u) p := congrArg (ph.run · p) h
    _ = near (ph.run v p) (ph.run u p) := by cases ph <;> rfl

theorem Near.runs (phs : List Phase) : ∀ {u v : State} (_ : Near u v) (ps : List Part), Near (runs u phs ps) (runs v phs ps) := by
  induction phs with
  | nil => exact fun h _ => h
  | cons ph phs ih =>
    intro u v h ps
    cases ps with
    | nil => exact h
    | cons p ps => exact ih (h.run ph p) ps

theorem Loose.refl (u : State) : Loose u u := rfl

theorem Loose.trans (h : Loose u v) (k : Loose v w) : Loose u w :=
  calc u = loose v u := h
    _ = loose (loose w v) u := congrArg (loose · u) k
    _ = loose w u := rfl

theorem Near.loose (h : Near u v) : Loose u v :=
  calc u = near v u := h
    _ = Machine.loose v (near v u) := rfl
    _ = Machine.loose v u := congrArg (Machine.loose v) h.symm

theorem Loose.run (h : Loose u v) (p : Part) : Loose (p.run u) (p.run v) :=
  calc p.run u = p.run (loose v u) := congrArg p.run h
    _ = loose (p.run v) (p.run u) := by cases p <;> rfl

theorem Loose.plays (ps : List Part) : ∀ {u v : State}, Loose u v → Loose (ps.foldl Part.run u) (ps.foldl Part.run v) := by
  induction ps with
  | nil => exact id
  | cons p ps ih => exact fun h => ih (h.run p)

/-- The counters apart, phases that pass run as their parts do. -/
theorem runs_loose (phs : List Phase) : ∀ (t : State) (ps : List Part), phs.length = ps.length → Loose (runs t phs ps) (ps.foldl Part.run t) := by
  induction phs with
  | nil =>
    intro t ps hl
    obtain rfl := List.length_eq_zero_iff.1 hl.symm
    exact .refl t
  | cons ph phs ih =>
    intro t ps hl
    cases ps with
    | nil => cases hl
    | cons p ps => exact (ih _ ps (Nat.succ.inj hl)).trans (Loose.plays ps rfl)

theorem runs_append {phs' : List Phase} {ps' : List Part} : ∀ {phs : List Phase} {ps : List Part}, phs.length = ps.length →
    ∀ t, runs t (phs ++ phs') (ps ++ ps') = runs (runs t phs ps) phs' ps'
  | [], [], _, _ => rfl
  | ph :: phs, p :: ps, h, t => runs_append (phs := phs) (ps := ps) (Nat.succ.inj h) (ph.run t p)

/-! ### What phases do -/

/-- These phases pass in these parts, every buffer access of them admitted. -/
def Passed (s : State) : List Phase → List Part → Prop := List.Forall₂ fun ph p => ph.Admitted s ∧ ph.Passes s p

/-- These phases pass up to one that is stuck, in these parts. -/
inductive Sticking (s : State) : List Phase → List Part → Prop where
  | here {ph : Phase} {post : List Phase} {p : Part} (h : ph.Sticks s p) : Sticking s (ph :: post) [p]
  | later {ph : Phase} {phs : List Phase} {p : Part} {ps : List Part} (h : ph.Admitted s ∧ ph.Passes s p) (hs : Sticking s phs ps) :
      Sticking s (ph :: phs) (p :: ps)

/-- Consecutive phases are stuck in the first of them or in the rest. -/
theorem Sticking.split {phs' : List Phase} : ∀ {phs : List Phase} {ps : List Part}, Sticking s (phs ++ phs') ps →
    Sticking s phs ps ∨ ∃ ps₁ ps₂, Passed s phs ps₁ ∧ Sticking s phs' ps₂ ∧ ps = ps₁ ++ ps₂
  | [], ps, h => .inr ⟨[], ps, .nil, h, rfl⟩
  | _ :: _, _, .here h => .inl (.here h)
  | _ :: phs, _ :: _, .later h hs => by
    obtain hs | ⟨ps₁, ps₂, h₁, h₂, rfl⟩ := Sticking.split (phs := phs) hs
    · exact .inl (.later h hs)
    · exact .inr ⟨_ :: ps₁, ps₂, .cons h h₁, h₂, rfl⟩

theorem Passed.split {phs' : List Phase} : ∀ {phs : List Phase} {ps : List Part}, Passed s (phs ++ phs') ps →
    ∃ ps₁ ps₂, Passed s phs ps₁ ∧ Passed s phs' ps₂ ∧ ps = ps₁ ++ ps₂
  | [], ps, h => ⟨[], ps, .nil, h, rfl⟩
  | _ :: phs, _ :: _, .cons h hs => by
    obtain ⟨ps₁, ps₂, h₁, h₂, rfl⟩ := Passed.split (phs := phs) hs
    exact ⟨_ :: ps₁, ps₂, .cons h h₁, h₂, rfl⟩

/-- `t` is a state of the operation started in `s`, with nothing to arrive and no byte raced for. -/
structure Working (s t : State) : Prop where
  quiet : Quiet t
  reqOld : t.reqOld = []
  cfg : t.cfg = s.cfg
  lBuf : t.lBuf = s.bufbase
  lArg0 : t.lArg0 = s.arg0
  lArg1 : t.lArg1 = s.arg1
  family : t.family = s.family
  seq : t.seq.fetch? = none

/-- Where these phases pass, the piece goes on with `k`, from the state they leave. -/
def ComesTo (s : State) (m : Blk α) (phs : List Phase) (k : Blk α) : Prop := ∀ t ps rest, Working s t → Passed s phs ps →
  t.card = partsBytes ps ++ rest → ∃ u, m t = k u ∧ Working s u ∧ Near u (runs t phs ps)

/-- Where they pass it gives `a`. -/
abbrev Gets (s : State) (m : Blk α) (a : α) (phs : List Phase) : Prop := ComesTo s m phs (pure a)

/-- The piece is stuck where one of these phases is, and leaves what they have done (R55). -/
def Stuck (s : State) (m : Blk α) (phs : List Phase) : Prop := ∀ t ps rest, Working s t → Sticking s phs ps →
  t.card = partsBytes ps ++ rest → ∃ u, m t = .error .stuck u ∧ u.seq.fetch? = none ∧ Loose u (ps.foldl Part.run t)

/-- The piece performs these phases. -/
structure Performs (s : State) (m : Blk α) (a : α) (phs : List Phase) : Prop where
  gets : Gets s m a phs
  stuck : Stuck s m phs

theorem plays_card (ps : List Part) : ∀ t : State, (ps.foldl Part.run t).card = t.card.drop (partsBytes ps).length := by
  induction ps with
  | nil => exact fun _ => rfl
  | cons p ps ih => intro t; rw [List.foldl_cons, ih]; simp [Part.run, partsBytes]

theorem Passed.runs_card (h : Passed s phs ps) (t : State) : (runs t phs ps).card = t.card.drop (partsBytes ps).length := by
  rw [runs_loose phs t ps h.length_eq, ← plays_card]; rfl

/-! ### Sequences -/

variable {m : Blk α} {f : α → Blk β} {a : α} {b : β} {phs' : List Phase}

theorem Gets.bind {n : Blk β} (h : Gets s m a phs) (k : ComesTo s (f a) phs' n) : ComesTo s (m >>= f) (phs ++ phs') n := by
  intro t ps rest l hp hc
  obtain ⟨ps₁, ps₂, h₁, h₂, rfl⟩ := hp.split
  rw [partsBytes_append, List.append_assoc] at hc
  obtain ⟨u, e, lu, nu⟩ := h t ps₁ _ l h₁ hc
  obtain ⟨v, e', lv, nv⟩ := k u ps₂ rest lu h₂ (by rw [nu]; exact (h₁.runs_card t).trans (by simp [hc]))
  exact ⟨v, (blk_bind_ok e f).trans e', lv, by rw [runs_append h₁.length_eq]; exact nv.trans (nu.runs _ _)⟩

/-- Stuck after phases that pass. -/
theorem Stuck.after (hm : Performs s m a phs) (k : Stuck s (f a) phs') : Stuck s (m >>= f) (phs ++ phs') := by
  intro t ps rest l hs hc
  obtain hs | ⟨ps₁, ps₂, h₁, h₂, rfl⟩ := hs.split
  · obtain ⟨u, e, hu⟩ := hm.stuck t _ rest l hs hc
    exact ⟨u, blk_bind_error e f, hu⟩
  · rw [partsBytes_append, List.append_assoc] at hc
    obtain ⟨u, e, lu, nu⟩ := hm.gets t ps₁ _ l h₁ hc
    obtain ⟨v, e', hv, lv⟩ := k u ps₂ rest lu h₂ (by rw [nu]; exact (h₁.runs_card t).trans (by simp [hc]))
    refine ⟨v, (blk_bind_ok e f).trans e', hv, lv.trans ?_⟩
    rw [List.foldl_append]
    exact Loose.plays ps₂ (nu.loose.trans (runs_loose phs t ps₁ h₁.length_eq))

/-- Where the first piece is stuck, so is the whole. -/
theorem Stuck.left (h : Stuck s m phs) : Stuck s (m >>= f) phs := fun t ps rest l hs hc => by
  obtain ⟨u, e, hu⟩ := h t ps rest l hs hc
  exact ⟨u, blk_bind_error e f, hu⟩

theorem Performs.bind (h : Performs s m a phs) (k : Performs s (f a) b phs') : Performs s (m >>= f) b (phs ++ phs') :=
  ⟨Gets.bind h.gets k.gets, Stuck.after h k.stuck⟩

/-- Where these phases pass, the piece goes on with `k`; it is stuck where one of them is, and after them where `k` is. -/
structure Reaches (s : State) (m : Blk α) (phs : List Phase) (k : Blk α) : Prop where
  comesTo : ComesTo s m phs k
  stuck : ∀ {phs'}, Stuck s k phs' → Stuck s m (phs ++ phs')

theorem Reaches.here (m : Blk α) : Reaches s m [] m where
  comesTo t ps _ l hp _ := by
    obtain rfl := List.forall₂_nil_left_iff.1 hp
    exact ⟨t, rfl, l, rfl⟩
  stuck h := h

theorem Performs.reaches {n : Blk β} (h : Performs s m a phs) (k : Reaches s (f a) phs' n) : Reaches s (m >>= f) (phs ++ phs') n where
  comesTo := Gets.bind h.gets k.comesTo
  stuck hk := by
    rw [List.append_assoc]
    exact Stuck.after h (k.stuck hk)

/-! ### Pieces without a phase -/

/-- A piece that goes on at once, in a state that is the same up to hidden fields. -/
theorem Performs.silent (h : ∀ t, Working s t → ∃ u, m t = .ok a u ∧ Working s u ∧ Near u t) : Performs s m a [] where
  gets t ps _ l hp _ := by
    obtain rfl := List.forall₂_nil_left_iff.1 hp
    exact h t l
  stuck _ _ _ _ hs _ := nomatch hs

theorem at_performs {p : Seq} (hp : p.fetch? = none) : Performs s (at_ p) () [] := .silent fun _ l =>
  ⟨_, at_quiet l.quiet p, { l with seq := hp }, rfl⟩

theorem line_performs (n : Nat) : Performs s (line n) () [] := at_performs rfl

theorem part_performs (n k : Nat) : Performs s (part n k) () [] := at_performs rfl

theorem pure_performs (a : α) : Performs s (pure a) a [] := .silent fun t l => ⟨t, rfl, l, rfl⟩

theorem firstAddress_performs : Performs s firstAddress (adjust s.family s.arg0) [] := .silent fun t l =>
  ⟨t, by rw [firstAddress_apply, l.family, l.lArg0], l, rfl⟩

theorem lastAddress_performs : Performs s lastAddress (adjust s.family s.arg1) [] := .silent fun t l =>
  ⟨t, by rw [lastAddress_apply, l.family, l.lArg1], l, rfl⟩

theorem sectorCount_performs : Performs s sectorCount s.arg1 [] := .silent fun t l => ⟨t, congrArg (EStateM.Result.ok · t) l.lArg1, l, rfl⟩

/-- `if not m: raise Fail(c)` where `m` succeeds. -/
theorem Performs.require {m : Blk Bool} (n : Nat) (c : Cause) (h : Performs s m true phs) : Performs s (require n c m) () phs := by
  have rest := h.bind (f := fun ok => if ok then pure () else do part n 2; raise c) (b := ()) (pure_performs ())
  rw [List.append_nil] at rest
  exact Performs.bind (line_performs n) rest

/-- `if not b: raise Fail(c)` where `b` is true. -/
theorem test_performs (n : Nat) (c : Cause) {b : Bool} (hb : b = true) : Performs s (Machine.require n c (pure b)) () [] :=
  .require n c (by rw [hb]; exact pure_performs true)

/-- A piece that reads the state first, and goes on alike from every state of the operation. -/
theorem Gets.get {g : State → Blk β} (h : ∀ t, Working s t → Gets s (g t) b phs) : Gets s ((MonadState.get : Blk State) >>= g) b phs :=
  fun t ps rest l => h t l t ps rest l

theorem Stuck.get {g : State → Blk β} (h : ∀ t, Working s t → Stuck s (g t) phs) : Stuck s ((MonadState.get : Blk State) >>= g) phs :=
  fun t ps rest l => h t l t ps rest l

theorem Performs.get {g : State → Blk β} (h : ∀ t, Working s t → Performs s (g t) b phs) :
    Performs s ((MonadState.get : Blk State) >>= g) b phs := ⟨Gets.get fun t l => (h t l).gets, Stuck.get fun t l => (h t l).stuck⟩

/-! ### Single phases -/

theorem Working.passes (l : Working s t) (h : ph.Passes s p) : ph.Passes t p := by
  cases ph <;> simp only [Phase.Passes, CommandReply, WaitReply, BlockIn.Good, l.cfg] at h ⊢ <;> exact h

theorem Working.near (l : Working s t) (h : Near u (ph.run t p)) (hu : u.seq.fetch? = none) : Working s u := by
  rw [h]
  exact { l with seq := hu }

/-- A piece that performs one phase where no buffer byte is accessed. -/
theorem Performs.one (hs : ∀ p, ¬ ph.Sticks s p)
    (h : ∀ t p rest, Working s t → ph.Passes t p → t.card = p.bytes ++ rest → m t = .ok a (ph.run t p)) : Performs s m a [ph] where
  gets t ps rest l hp hc := by
    obtain _ | ⟨⟨-, h₁⟩, _ | _⟩ := hp
    exact ⟨_, h t _ rest l (l.passes h₁) (by simpa [partsBytes] using hc), l.near rfl l.seq, rfl⟩
  stuck t ps rest l hst hc := by
    cases hst with
    | here h => exact absurd h (hs _)
    | later _ h => exact nomatch h

theorem waitIdle_performs : Performs s waitIdle true [.ready] := .one (fun _ h => h) fun t p rest l h hc => by
  obtain ⟨w, rfl, hw⟩ := h
  exact waitIdle_quiet l.quiet hw hc

theorem ready_performs (n : Nat) : Performs s (Machine.require n .readyTimeout waitIdle) () [.ready] := waitIdle_performs.require n _

theorem waitBusy_performs {m : Blk Bool} {bound : Nat} (h : ∀ t l rest, Working s t → WaitReply busIdle bound 0xFF#8 l → t.card = l ++ rest →
    m t = .ok true (polled t bound l)) : Performs s m true [.busy bound] := .one (fun _ h => h) fun t p rest l hp hc => by
  obtain ⟨w, rfl, hw⟩ := hp
  exact h t w rest l hw hc

theorem waitWriteBusy_performs : Performs s waitWriteBusy true [.busy s.cfg.writeBusyTries] := waitBusy_performs fun t w rest l hw hc => by
  rw [← l.cfg] at hw ⊢
  exact waitWriteBusy_quiet l.quiet hw hc

theorem waitEraseBusy_performs : Performs s waitEraseBusy true [.busy s.cfg.eraseBusyTries] := waitBusy_performs fun t w rest l hw hc => by
  rw [← l.cfg] at hw ⊢
  exact waitEraseBusy_quiet l.quiet hw hc

theorem fillers_performs (n : Nat) : Performs s (fillers n) () [.gap n] := .one (fun _ h => h) fun t p rest l h hc => by
  obtain ⟨w, rfl, hw⟩ := h
  rw [fillers_quiet l.quiet hc hw, ← hw]
  rfl

theorem writeGap_performs : Performs s writeGap () [.gap s.cfg.writeGapBytes] := .get fun t l => by
  rw [← l.cfg]
  exact fillers_performs _

theorem sendCommand_performs (idx : Byte) (arg : Word) : Performs s (sendCommand idx arg 0x00#8) 0x00#8 [.command idx arg] :=
  .one (fun _ h => h) fun t p rest l h hc => by
    obtain ⟨w, rfl, hw⟩ := h
    rw [sendCommand_quiet l.quiet hw hc]
    obtain ⟨junk, polls, -, -, -, -, rfl⟩ := hw
    simp [Phase.run, Part.run, answered, heard, Part.bytes, Part.events, commandEvents, Part.lastR1, Part.lastDresp, Part.store, Phase.tries,
      Phase.byteIdx]

theorem command_performs (n : Nat) (idx : Byte) (arg : Word) :
    Performs s (Machine.require n .cmdRejected (isAccepted (sendCommand idx arg 0x00#8))) () [.command idx arg] :=
  .require n _ ((sendCommand_performs idx arg).bind (pure_performs true))

theorem appCommand_performs (idx : Byte) (arg : Word) :
    Performs s (appCommand idx arg) true [.command 55#8 0x00000000#32, .command idx arg] :=
  (sendCommand_performs _ _).bind ((sendCommand_performs idx arg).bind (pure_performs true))

end Sys2Proof.Machine
end

section
/-! SUPPORT. The phases of a data operation that access buffer memory: a block received or sent passes, or is stuck at the first byte the
platform does not admit (20_memory.md R54, R55; 41_wait_and_data.md R125 to R127). -/
namespace Sys2Proof.Machine

variable {s t u : State} {α β : Type}

/-! ### Receiving -/

/-- `t` after a byte is received and stored (R54). -/
def byteStored (t : State) (a : Nat) (b : Byte) : State :=
  { heard t [filler] [b] with mem := memPut t.mem (bufAddr t a) b, trace := .memWrite (bufAddr t a) b :: (heard t [filler] [b]).trace }

/-- A loop that receives bytes to `dest` on: each turn exchanges a filler and stores the byte, or is stuck there. -/
structure Receives (s : State) (dest : Nat) (loop : Nat → Nat → Blk Unit) : Prop where
  stores : ∀ t i n b rest, Working s t → t.card = b :: rest → inRegions t.cfg.noWrite (bufAddr t (dest + i)) = false →
    ∃ u, loop i (n + 1) t = loop (i + 1) n u ∧ Working s u ∧ Loose u (byteStored t (dest + i) b)
  sticks : ∀ t i n b rest, Working s t → t.card = b :: rest → inRegions t.cfg.noWrite (bufAddr t (dest + i)) = true →
    ∃ u, loop i (n + 1) t = .error .stuck u ∧ u.seq.fetch? = none ∧ Loose u (heard t [filler] [b])

theorem stuckIn_cons (off : Nat) (c : Byte) (cs : List Byte) (b : Byte) (t : State) :
    (Part.stuckIn (off + 1) [] cs b).run (byteStored t (t.lBuf.toNat + off) c) = (Part.stuckIn off [] (c :: cs) b).run t := by
  simp [Part.run, byteStored, heard, Part.bytes, Part.events, Part.store, Part.lastR1, Part.lastDresp, receiveEvents, storeBytes,
    pollEvents, xchgEvents, bufAddr, Nat.add_assoc, Nat.add_comm 1]

/-- Bytes that can be stored, and then one that cannot. -/
theorem Receives.stuck {loop : Nat → Nat → Blk Unit} {off : Nat} (h : Receives s (s.bufbase.toNat + off) loop) (stored : List Byte) :
    ∀ {t : State} {i n : Nat} {b : Byte} {rest : List Byte}, Working s t → t.card = stored ++ b :: rest → stored.length < n →
    WritesAdmitted s (s.bufbase.toNat + (off + i)) stored.length →
    inRegions s.cfg.noWrite (bufAddr s (s.bufbase.toNat + (off + i) + stored.length)) = true →
    ∃ u, loop i n t = .error .stuck u ∧ u.seq.fetch? = none ∧ Loose u ((Part.stuckIn (off + i) [] stored b).run t) := by
  have here : ∀ {t : State}, Working s t → ∀ a, inRegions t.cfg.noWrite (bufAddr t a) = inRegions s.cfg.noWrite (bufAddr s a) :=
    fun l a => by rw [bufAddr, bufAddr, l.cfg]
  induction stored with
  | nil =>
    intro t i n b rest l hc hn _ hs
    obtain ⟨m, rfl⟩ : ∃ m, n = m + 1 := ⟨n - 1, by simp at hn; omega⟩
    exact h.sticks t i m b rest l hc (by rw [here l, Nat.add_assoc]; exact hs)
  | cons c cs ih =>
    intro t i n b rest l hc hn ha hs
    obtain ⟨m, rfl⟩ : ∃ m, n = m + 1 := ⟨n - 1, by simp at hn; omega⟩
    obtain ⟨u, e, lu, hu⟩ := h.stores t i m c _ l hc (by rw [here l, Nat.add_assoc]; exact ha 0 (by simp))
    obtain ⟨v, e', hv, lv⟩ := ih (t := u) (i := i + 1) (n := m) (b := b) (rest := rest) lu
      (by rw [hu]; simp [loose, near, byteStored, hc]) (by simpa using hn)
      (fun j hj => by
        have := ha (j + 1) (by simpa using hj)
        rwa [show s.bufbase.toNat + (off + (i + 1)) + j = s.bufbase.toNat + (off + i) + (j + 1) by omega])
      (by rwa [show s.bufbase.toNat + (off + (i + 1)) + cs.length = s.bufbase.toNat + (off + i) + (c :: cs).length by simp; omega])
    refine ⟨v, e.trans e', hv, lv.trans ((hu.run _).trans ?_)⟩
    rw [← Nat.add_assoc off, Nat.add_assoc _ off i, ← l.lBuf, stuckIn_cons]
    exact .refl _

/-- A turn of the payload loop up to its buffer access. -/
theorem receivePayload_write {t : State} (q : Quiet t) {b : Byte} {rest : List Byte} (hc : t.card = b :: rest) (dest i n : Nat) :
    receivePayload dest i (n + 1) t = (memWrite (dest + i) b >>= fun _ => receivePayload dest (i + 1) n)
      (heard { t with byteIdx := i } [filler] [b]) := by
  rw [receivePayload, blk_bind_ok (setByteIdx_apply i t), blk_bind_ok (xchg_quiet (s := { t with byteIdx := i }) q hc filler)]

theorem receivePayload_receives (s : State) (dest : Nat) : Receives s dest (receivePayload dest) where
  stores t i n b rest l hc ha := by
    have hw := memWrite_quiet (s := heard { t with byteIdx := i } [filler] [b]) l.quiet (a := dest + i)
      (by rw [heard_reqOld, l.reqOld]; rfl) ha b
    exact ⟨_, (receivePayload_write l.quiet hc dest i n).trans (blk_bind_ok hw _), { l with seq := l.seq }, rfl⟩
  sticks t i n b rest l hc ha :=
    ⟨_, (receivePayload_write l.quiet hc dest i n).trans
      (blk_bind_error (memWrite_stuck (s := heard { t with byteIdx := i } [filler] [b]) l.quiet ha b) _), l.seq, rfl⟩

/-- A turn of the CSD loop up to its buffer access. -/
theorem receiveCsd_write {t : State} (q : Quiet t) {b : Byte} {rest : List Byte} (hc : t.card = b :: rest) (dest i n : Nat) :
    receiveCsd dest i (n + 1) t =
      (memWrite (dest + i) b >>= fun _ => line 10 >>= fun _ => setCsd (Fin.ofNat 16 i) b >>= fun _ => receiveCsd dest (i + 1) n)
      { heard { t with byteIdx := i } [filler] [b] with seq := .body 9 1 } := by
  rw [receiveCsd, blk_bind_ok (line_quiet q 7), blk_bind_ok (setByteIdx_apply i _),
    blk_bind_ok (line_quiet (s := { t with seq := .body 7 1, byteIdx := i }) q 8),
    blk_bind_ok (xchg_quiet (s := { t with seq := .body 8 1, byteIdx := i }) q hc filler),
    blk_bind_ok (line_quiet (s := heard { t with seq := .body 8 1, byteIdx := i } [filler] [b]) q 9)]
  rfl

theorem receiveCsd_receives (s : State) (dest : Nat) : Receives s dest (receiveCsd dest) where
  stores t i n b rest l hc ha := by
    have hw := memWrite_quiet (s := { heard { t with byteIdx := i } [filler] [b] with seq := .body 9 1 }) l.quiet
      (a := dest + i) (by rw [show State.reqOld _ = t.reqOld from rfl, l.reqOld]; rfl) ha b
    refine ⟨_, (receiveCsd_write l.quiet hc dest i n).trans ((blk_bind_ok hw _).trans ((blk_bind_ok (line_quiet ?_ 10) _).trans
      (blk_bind_ok (setCsd_apply _ b _) _))), { l with seq := rfl }, rfl⟩
    exact l.quiet
  sticks t i n b rest l hc ha := by
    have hw := memWrite_stuck (s := { heard { t with byteIdx := i } [filler] [b] with seq := .body 9 1 }) l.quiet
      (a := dest + i) ha b
    exact ⟨_, (receiveCsd_write l.quiet hc dest i n).trans (blk_bind_error hw _), rfl, rfl⟩

end Sys2Proof.Machine
end

section
/-! SUPPORT. The phases of a data operation that move a block or a register, passing and stuck (41_wait_and_data.md R125 to R127). -/
namespace Sys2Proof.Machine
variable {s t u : State} {α β : Type}

/-- The token and then bytes up to one that cannot be stored. -/
theorem stuckIn_polled (off tries : Nat) (wait stored : List Byte) (b : Byte) (t : State) :
    Loose ((Part.stuckIn off [] stored b).run (polled t tries wait)) ((Part.stuckIn off wait stored b).run t) := by
  simp [Loose, loose, near, Part.run, polled, withTries, heard, Part.bytes, Part.events, Part.store, Part.lastR1, Part.lastDresp, pollEvents,
    xchgEvents, Nat.add_assoc, Nat.add_comm stored.length]

/-- A receiving piece is stuck where its loop is: `opens` says how it comes to it. -/
theorem Receives.phase_stuck {m : Blk α} {loop : Nat → Nat → Blk Unit} {off len : Nat} (h : Receives s (s.bufbase.toNat + off) loop)
    {rest : Unit → Blk α} (opens : ∀ t wait tail, Working s t → TokenReply s 0xFE#8 wait → t.card = wait ++ tail →
      ∃ u, m t = (loop 0 len >>= rest) u ∧ Working s u ∧ Loose u (polled t t.cfg.tokenWaitTries wait)) : Stuck s m [.receive len off] := by
  intro t ps tail l hs hc
  cases hs with
  | later _ hs => cases hs
  | here hs =>
    obtain ⟨wait, stored, b, rfl, ht, hl, ha, hst⟩ := hs
    obtain ⟨u, e, lu, hu⟩ := opens t wait (stored ++ b :: tail) l ht (by simpa [partsBytes, Part.bytes] using hc)
    obtain ⟨v, e', hv, lv⟩ := h.stuck (i := 0) (n := len) (b := b) (rest := tail) stored lu
      (by rw [hu]; simp [loose, near, hc, partsBytes, Part.bytes]) hl ha hst
    exact ⟨v, e.trans (blk_bind_error e' rest), hv, lv.trans ((hu.run _).trans (stuckIn_polled off _ wait stored b t))⟩

/-- What the phase of a received block leaves. -/
theorem receive_near (t : State) (off : Nat) (b : BlockIn) {len : Nat} (hl : b.payload.length = len) (hcrc : b.crc.length = 2)
    (old : List Host.Cell) : Near (heard (received (polled t t.cfg.tokenWaitTries b.wait) (t.lBuf.toNat + off) 0 b.payload old) [filler, filler] b.crc)
      ((Phase.receive len off).run t (.blockIn off b)) := by
  subst hl
  obtain ⟨wait, payload, crc⟩ := b
  obtain ⟨c0, c1, rfl⟩ := List.length_eq_two.1 hcrc
  cases payload <;>
  simp [Near, near, Phase.run, Part.run, received, polled, withTries, heard, Part.bytes, BlockIn.bytes, Part.events, BlockIn.events, Part.store,
    Part.lastR1, Part.lastDresp, Phase.tries, Phase.byteIdx, Nat.add_assoc, pollEvents, receiveEvents, xchgEvents]

/-- A receiving piece performs its phase. -/
theorem Gets.receive {m : Blk α} {a : α} {len off : Nat} (h : ∀ t b rest, Working s t → b.Good s len →
    WritesAdmitted s (s.bufbase.toNat + off) len → t.card = b.bytes ++ rest →
    ∃ u, m t = .ok a u ∧ u.seq.fetch? = none ∧ Near u ((Phase.receive len off).run t (.blockIn off b))) : Gets s m a [.receive len off] := by
  intro t ps rest l hp hc
  obtain _ | ⟨⟨ha, b, rfl, hb⟩, _ | _⟩ := hp
  obtain ⟨u, e, hu, nu⟩ := h t b rest l hb ha (by simpa [partsBytes, Part.bytes] using hc)
  exact ⟨u, e, l.near nu hu, nu⟩

theorem Working.writesAdmitted (l : Working s t) {off len : Nat} (h : WritesAdmitted s (s.bufbase.toNat + off) len) :
    WritesAdmitted t (t.lBuf.toNat + off) len := by
  intro i hi
  rw [bufAddr, l.cfg, l.lBuf]
  exact h i hi

theorem Working.tokenReply (l : Working s t) {b : Byte} {w : List Byte} (h : TokenReply s b w) :
    WaitReply tokenArrived t.cfg.tokenWaitTries b w := by
  rw [l.cfg]
  exact h

theorem dataReceive_performs (len off : Nat) : Performs s (dataReceive len (s.bufbase.toNat + off)) true [.receive len off] where
  gets := .receive fun t b rest l ⟨ht, hl, hcrc⟩ ha hc => by
    obtain ⟨old, e⟩ := dataReceive_quiet l.quiet l.reqOld (l.tokenReply ht) hcrc hc (hl ▸ l.writesAdmitted ha)
    rw [hl, l.lBuf] at e
    exact ⟨_, e, l.seq, l.lBuf ▸ receive_near t off b hl hcrc old⟩
  stuck := (receivePayload_receives s _).phase_stuck fun t wait tail l ht hc =>
    ⟨_, (blk_bind_ok (waitToken_quiet l.quiet (l.tokenReply ht) hc) _), { l with seq := l.seq }, rfl⟩

theorem receiveSector_performs (k : Nat) : Performs s (receiveSector k) true [.receive 512 (512 * k)] := .get fun t l => by
  rw [bufOff, l.lBuf]
  exact dataReceive_performs 512 _

theorem receiveRegister_performs (len off : Nat) : Performs s (receiveRegister len off) true [.receive len off] := .get fun t l => by
  rw [bufOff, l.lBuf]
  exact dataReceive_performs len off

theorem csdReceive_receiveCsd (l : Working s t) {wait tail : List Byte} (ht : TokenReply s 0xFE#8 wait) (hc : t.card = wait ++ tail) :
    csdReceive t = (receiveCsd (s.bufbase.toNat + 0) 0 16 >>= fun _ => line 11 >>= fun _ => fillers 1 >>= fun _ => part 11 2 >>= fun _ =>
      fillers 1) { polled t t.cfg.tokenWaitTries wait with seq := .body 6 1 } := by
  have hw := waitToken_quiet (s := { t with seq := .body 5 1 }) l.quiet (l.tokenReply ht) hc
  have h6 := require_pass (s := polled { t with seq := .body 5 1 } t.cfg.tokenWaitTries wait) l.quiet 6 .tokenFail (b := true) rfl
  rw [← l.lBuf]
  exact (blk_bind_ok (line_quiet l.quiet 5) _).trans ((blk_bind_ok hw _).trans (blk_bind_ok h6 _))

theorem csdReceive_performs : Performs s csdReceive () [.receive 16 0] where
  gets := .receive fun t b rest l ⟨ht, hl, hcrc⟩ ha hc => by
    obtain ⟨wait, payload, crc⟩ := b
    obtain ⟨csd, rfl⟩ : ∃ csd : Vector Byte 16, csd.toList = payload := ⟨⟨payload.toArray, hl⟩, rfl⟩
    obtain ⟨old, e⟩ := csdReceive_quiet l.quiet l.reqOld (l.tokenReply ht) hcrc hc (l.writesAdmitted (off := 0) ha)
    exact ⟨_, e, rfl, Near.trans
      (v := heard (received (polled t t.cfg.tokenWaitTries wait) t.lBuf.toNat 0 csd.toList old) [filler, filler] crc) rfl
      (receive_near t 0 ⟨wait, csd.toList, crc⟩ hl hcrc old)⟩
  stuck := (receiveCsd_receives s _).phase_stuck fun t wait tail l ht hc =>
    ⟨_, csdReceive_receiveCsd l ht hc, { l with seq := rfl }, rfl⟩

/-! ### Sending -/

theorem sendPayload_add (src m : Nat) : ∀ n i, sendPayload src i (n + m) = sendPayload src i n >>= fun _ => sendPayload src (i + n) m
  | 0, i => by rw [Nat.zero_add]; rfl
  | n + 1, i => by
    rw [Nat.succ_add, sendPayload, sendPayload]
    simp only [bind_assoc, sendPayload_add src m n, Nat.succ_add_eq_add_succ]

theorem memRead_stuck {s : State} (q : Quiet s) {a : Nat} (h : inRegions s.cfg.noRead (bufAddr s a) = true) : memRead a s = .error .stuck s := by
  rw [memRead, blk_bind_ok (sync_quiet q), blk_bind, blk_get]
  simp only [h]
  rfl

/-- Bytes that can be read, and then one that cannot. -/
theorem sendPayload_stuck (q : Quiet t) (hr : t.reqOld = []) {src n : Nat} {ins rest : List Byte} (hc : t.card = ins ++ rest)
    (hn : ins.length < n) (ha : ReadsAdmitted t src ins.length) (hs : inRegions t.cfg.noRead (bufAddr t (src + ins.length)) = true) :
    ∃ u, sendPayload src 0 n t = .error .stuck u ∧ u.seq = t.seq ∧ Loose u (payloadSent t src 0 ins) := by
  obtain ⟨m, rfl⟩ : ∃ m, n = ins.length + (m + 1) := ⟨n - ins.length - 1, by omega⟩
  rw [sendPayload_add, blk_bind_ok (sendPayload_quiet q hr hc (by rw [Nat.add_zero]; exact ha)), sendPayload,
    blk_bind_ok (setByteIdx_apply _ _), Nat.zero_add]
  exact ⟨_, blk_bind_error (memRead_stuck (s := { payloadSent t src 0 ins with byteIdx := ins.length }) q hs) _, rfl, rfl⟩

theorem Working.readsAdmitted (l : Working s t) {off len : Nat} (h : ReadsAdmitted s (s.bufbase.toNat + off) len) :
    ReadsAdmitted t (t.lBuf.toNat + off) len := by
  intro i hi
  rw [bufAddr, l.cfg, l.lBuf]
  exact h i hi

/-- What the phase of a sent block leaves. -/
theorem blockSent_near (t : State) (token : Byte) (off : Nat) (b : BlockOut) (hl : b.payload.length = 512) (hcrc : b.crc.length = 2)
    (hb : b.busy = []) : blockSent t token (t.lBuf.toNat + off) b.token b.payload b.crc b.dresp =
      (Phase.send token off).run t (.blockOut token off b) := by
  obtain ⟨a, payload, crc, d, busy⟩ := b
  obtain rfl : busy = [] := hb
  obtain ⟨c0, c1, rfl⟩ := List.length_eq_two.1 hcrc
  obtain ⟨x, xs, rfl⟩ := List.exists_cons_of_length_eq_add_one hl
  simp at hl
  simp [blockSent, payloadSent, Phase.run, Part.run, heard, Part.bytes, BlockOut.bytes, Part.events, BlockOut.events, Part.store,
    Part.lastR1, Part.lastDresp, Phase.tries, Phase.byteIdx, Nat.add_assoc, xchgEvents, pollEvents, drespMask, hl]

theorem sendSector_performs (token : Byte) (k : Nat) : Performs s (sendSector token k) true [.send token (512 * k)] where
  gets t ps rest l hp hc := by
    obtain _ | ⟨⟨ha, b, rfl, hl, hcrc, hb, hd⟩, _ | _⟩ := hp
    have e := sendBlock_quiet l.quiet l.reqOld token hl hcrc (by simpa [partsBytes, Part.bytes, BlockOut.bytes, hb] using hc) (l.readsAdmitted ha)
    rw [drespMask, hd, blockSent_near t token _ b hl hcrc hb] at e
    exact ⟨_, e, l.near (.refl _) l.seq, .refl _⟩
  stuck t ps rest l hs hc := by
    cases hs with
    | later _ hs => cases hs
    | here hs =>
      obtain ⟨a, ins, rfl, hn, ha, hst⟩ := hs
      have hc' : t.card = a :: (ins ++ rest) := by simpa [partsBytes, Part.bytes] using hc
      obtain ⟨u, e, hu, lu⟩ := sendPayload_stuck (t := heard t [token] [a]) l.quiet l.reqOld (src := t.lBuf.toNat + 512 * k)
        (ins := ins) (rest := rest) (by simp [hc']) hn
        (l.readsAdmitted ha) (by rw [bufAddr, heard_cfg, l.lBuf, l.cfg]; exact hst)
      refine ⟨u, (blk_bind_ok (xchg_quiet l.quiet hc' token) _).trans (blk_bind_error e _), hu ▸ l.seq, lu.trans ?_⟩
      simp [Loose, loose, near, payloadSent, heard, Part.run, Part.bytes, Part.events, Part.store, Part.lastR1, Part.lastDresp,
        xchgEvents, Nat.add_assoc, Nat.add_comm 1]

end Sys2Proof.Machine
end

section
/-! SUPPORT. The bodies of the data operations, phase by phase (43_block_transfer.md R172 to R176, 44_register_ops.md R200, R203). -/
namespace Sys2Proof.Machine
variable {s t u : State} {phs phs' : List Phase} {α β : Type}

/-! ### From the first statement to the select -/

/-- `t` after Select (R101). -/
def chosen (t : State) : State := { t with cs := true, trace := .select :: t.trace }

/-- The body selects the card and goes on with `rest`. -/
def Chooses (s : State) (body rest : Blk β) : Prop := ∀ t, Working s t → ∃ u, body t = rest u ∧ Working s u ∧ Near u (chosen t)

theorem Chooses.silent {m : Blk α} {a : α} {f : α → Blk β} {rest : Blk β} (h : Performs s m a []) (k : Chooses s (f a) rest) :
    Chooses s (m >>= f) rest := fun t l => by
  obtain ⟨u, e, lu, nu⟩ := h.gets t [] _ l .nil rfl
  obtain ⟨v, e', lv, nv⟩ := k u lu
  exact ⟨v, (blk_bind_ok e f).trans e', lv, nv.trans (congrArg chosen nu)⟩

theorem Chooses.select {rest : Blk β} : Chooses s (Machine.select >>= fun _ => rest) rest := fun _ l =>
  ⟨_, blk_bind_ok (select_quiet l.quiet) _, { l with seq := l.seq }, rfl⟩

/-- Where the body selects at once. -/
theorem line_chooses (n : Nat) {rest : Blk β} : Chooses s (line n >>= fun _ => Machine.select >>= fun _ => rest) rest :=
  .silent (line_performs n) .select

/-- Where it takes the first sector's address before. -/
theorem address_chooses (n m : Nat) {f : Word → Blk β} :
    Chooses s (line n >>= fun _ => firstAddress >>= fun a => line m >>= fun _ => Machine.select >>= fun _ => f a) (f (adjust s.family s.arg0)) :=
  .silent (line_performs n) (.silent firstAddress_performs (line_chooses m))

/-- Where it takes another value too. -/
theorem operands_chooses (n m : Nat) {get : Blk Word} {x : Word} (h : Performs s get x []) {f : Word → Word → Blk β} :
    Chooses s (line n >>= fun _ => firstAddress >>= fun a => part n m >>= fun _ => get >>= fun b => line (n + 1) >>= fun _ =>
      Machine.select >>= fun _ => f a b) (f (adjust s.family s.arg0) x) :=
  .silent (line_performs n) (.silent firstAddress_performs (.silent (part_performs n m) (.silent h (line_chooses (n + 1)))))

/-! ### Bodies that pass -/

theorem bodyRd1_performs (s : State) : ∃ rest, Chooses s bodyRd1 rest ∧ Performs s rest () (phases s .rd1) :=
  ⟨_, address_chooses 1 2, (ready_performs 3).bind ((line_performs 4).bind ((sendCommand_performs _ _).bind ((test_performs 5 _ rfl).bind
      (((receiveSector_performs 0).require 6 _).bind (line_performs 7)))))⟩

theorem bodyWr1_performs (s : State) : ∃ rest, Chooses s bodyWr1 rest ∧ Performs s rest () (phases s .wr1) :=
  ⟨_, address_chooses 1 2, (ready_performs 3).bind ((line_performs 4).bind ((sendCommand_performs _ _).bind ((test_performs 5 _ rfl).bind
    ((line_performs 6).bind (writeGap_performs.bind (((sendSector_performs _ 0).require 7 _).bind ((waitWriteBusy_performs.require 8 _).bind
      (line_performs 9))))))))⟩

theorem bodyErase_performs (s : State) : ∃ rest, Chooses s bodyErase rest ∧ Performs s rest () (phases s .erase) :=
  ⟨_, operands_chooses 1 2 lastAddress_performs, (ready_performs 3).bind ((command_performs 4 _ _).bind ((command_performs 5 _ _).bind
    ((command_performs 6 _ _).bind ((waitEraseBusy_performs.require 7 _).bind (line_performs 8)))))⟩

theorem bodyStat_performs (s : State) : ∃ rest, Chooses s bodyStat rest ∧ Performs s rest () (phases s .stat) :=
  ⟨_, line_chooses 1, (ready_performs 2).bind (((appCommand_performs _ _).require 3 _).bind ((line_performs 4).bind ((fillers_performs 1).bind
    (((receiveRegister_performs 64 0).require 5 _).bind (line_performs 6)))))⟩

/-! ### Bodies that are stuck -/

/-- No phase is stuck where there is none. -/
theorem Stuck.nil {m : Blk α} : Stuck s m [] := fun _ _ _ _ hs _ => nomatch hs

/-- Stuck after one phase that passes. -/
theorem Stuck.past {m : Blk α} {a : α} {f : α → Blk β} {ph : Phase} (h : Performs s m a [ph]) (k : Stuck s (f a) phs) :
    Stuck s (m >>= f) (ph :: phs) := .after h k

/-- Stuck after a piece without a phase. -/
theorem Stuck.idly {m : Blk α} {a : α} {f : α → Blk β} (h : Performs s m a []) (k : Stuck s (f a) phs) : Stuck s (m >>= f) phs := .after h k

/-- A piece that changes no more than counters, before phases. -/
theorem Stuck.silent {m : Blk α} {a : α} {f : α → Blk β} (h : ∀ t, Working s t → ∃ u, m t = .ok a u ∧ Working s u ∧ Loose u t)
    (k : Stuck s (f a) phs) : Stuck s (m >>= f) phs := fun t ps rest l hs hc => by
  obtain ⟨u, e, lu, hu⟩ := h t l
  obtain ⟨v, e', hv, lv⟩ := k u ps rest lu hs (by rw [hu]; exact hc)
  exact ⟨v, (blk_bind_ok e f).trans e', hv, lv.trans (Loose.plays ps hu)⟩

theorem setSector_silent (k : Nat) (t : State) (l : Working s t) : ∃ u, setSector k t = .ok () u ∧ Working s u ∧ Loose u t :=
  ⟨_, setSector_apply k t, { l with seq := l.seq }, rfl⟩

theorem setRes_silent (r : Accum) (t : State) (l : Working s t) : ∃ u, setRes r t = .ok () u ∧ Working s u ∧ Loose u t :=
  ⟨_, setRes_apply r t, { l with seq := l.seq }, rfl⟩

theorem rdnLoop_stuck : ∀ n k, Stuck s (rdnLoop k n) ((List.range' k n).map fun k => .receive 512 (512 * k))
  | 0, _ => .nil
  | n + 1, k => .idly (line_performs 7) (.silent (setSector_silent k) (.idly (line_performs 8)
      (.past (receiveSector_performs k) (rdnLoop_stuck n (k + 1)))))

theorem wrnLoop_stuck : ∀ n k, Stuck s (wrnLoop k n)
    ((List.range' k n).flatMap fun k => [.send 0xFC#8 (512 * k), .busy s.cfg.writeBusyTries])
  | 0, _ => .nil
  | n + 1, k => .idly (line_performs 12) (.silent (setSector_silent k) (.idly (line_performs 13)
      (.past (sendSector_performs _ k) (.idly (line_performs 15) (.past waitWriteBusy_performs (wrnLoop_stuck n (k + 1)))))))

/-- A branch on the family, or on another condition on the state the operation started in. -/
theorem Performs.ite {c : Prop} [Decidable c] {m m' : Blk α} {a : α} (h : c → Performs s m a phs) (h' : ¬ c → Performs s m' a phs') :
    Performs s (if c then m else m') a (if c then phs else phs') := by
  split
  · exact h ‹_›
  · exact h' ‹_›

theorem announceCount_performs : Performs s (announceCount s.arg1) true ((if s.cfg.setBlkCntAppPrefix = true then
    [(55#8, 0x00000000#32), (23#8, s.arg1)] else [(23#8, s.arg1)] : List (Byte × Word)).map fun c => .command c.1 c.2) := by
  refine Performs.bind (line_performs 5) (.get fun t l => ?_)
  rw [l.cfg, apply_ite (List.map _)]
  exact .ite (fun _ => (part_performs 5 2).bind (appCommand_performs _ _)) fun _ => (line_performs 6).bind
    ((sendCommand_performs _ _).bind (pure_performs true))

theorem announceUnlessMmc_performs : Performs s (announceUnlessMmc s.arg1) () ((announceCommands s).map fun c => .command c.1 c.2) := by
  refine Performs.bind (line_performs 4) (.get fun t l => ?_)
  rw [l.family, announceCommands, apply_ite (List.map _)]
  refine .ite (fun _ => pure_performs ()) fun _ => ?_
  rw [← List.append_nil (List.map _ _)]
  exact announceCount_performs.bind (test_performs 7 _ rfl)

theorem scrUnlessMmc_performs : Performs s scrUnlessMmc () (if s.family = .mmc then [] else
    [.ready, .command 55#8 0x00000000#32, .command 51#8 0x00000000#32, .receive 8 32]) := by
  refine Performs.bind (line_performs 17) (.get fun t l => ?_)
  rw [l.family]
  exact .ite (fun _ => pure_performs ()) fun _ => (ready_performs 18).bind (((appCommand_performs _ _).require 19 _).bind
    ((receiveRegister_performs 8 32).require 20 _))

/-- RDN from the opening of its transfer on (R173). -/
def rdnTransfer (n : Nat) : Blk Unit := do
  line 6
  setRes .ok
  rdnLoop 0 n
  line 11
  let r ← sendCommand 12#8 0x00000000#32 0x00#8
  checkStop r
  line 13
  returnRes

theorem bodyRdn_reaches (s : State) : ∃ rest, Chooses s bodyRdn rest ∧ Reaches s rest (phases s .rdn) (rdnTransfer s.arg1.toNat) :=
  ⟨_, operands_chooses 1 2 sectorCount_performs, (ready_performs 3).reaches ((line_performs 4).reaches
    ((sendCommand_performs _ _).reaches ((test_performs 5 _ rfl).reaches (.here _))))⟩

theorem bodyRdn_stuck (s : State) : ∃ rest, Chooses s bodyRdn rest ∧ Stuck s rest (phases s .rdn ++ loopPhases s .rdn) := by
  obtain ⟨rest, hopen, hreach⟩ := bodyRdn_reaches s
  refine ⟨rest, hopen, hreach.stuck ?_⟩
  rw [loopPhases, List.range_eq_range']
  exact .idly (line_performs 6) (.silent (setRes_silent .ok) (.left (rdnLoop_stuck _ 0)))

/-- WRN from the opening of its transfer on (R175). -/
def wrnTransfer (n : Nat) : Blk Unit := do
  line 11
  setRes .ok
  wrnLoop 0 n
  line 17
  let _ ← xchg stopToken
  line 18
  fillers 1
  closeWait
  line 21
  returnRes

theorem bodyWrn_reaches (s : State) : ∃ rest, Chooses s bodyWrn rest ∧
    Reaches s rest (phases s .wrn ++ [.gap s.cfg.writeGapBytes]) (wrnTransfer s.arg1.toNat) := by
  refine ⟨_, operands_chooses 1 2 sectorCount_performs, ?_⟩
  rw [phases, List.map_append, List.append_assoc, List.append_assoc]
  exact (ready_performs 3).reaches (announceUnlessMmc_performs.reaches ((line_performs 8).reaches ((sendCommand_performs _ _).reaches
    ((test_performs 9 _ rfl).reaches ((line_performs 10).reaches (writeGap_performs.reaches (.here _)))))))

theorem bodyWrn_stuck (s : State) : ∃ rest, Chooses s bodyWrn rest ∧ Stuck s rest (phases s .wrn ++ loopPhases s .wrn) := by
  obtain ⟨rest, hopen, hreach⟩ := bodyWrn_reaches s
  refine ⟨rest, hopen, ?_⟩
  rw [loopPhases, ← List.singleton_append, ← List.append_assoc, List.range_eq_range']
  exact hreach.stuck (.idly (line_performs 11) (.silent (setRes_silent .ok) (.left (wrnLoop_stuck _ 0))))

theorem bodyInfo_stuck (s : State) : ∃ rest, Chooses s bodyInfo rest ∧ Stuck s rest (phases s .info ++ loopPhases s .info) := by
  refine ⟨_, line_chooses 1, ?_⟩
  rw [loopPhases, List.append_nil, phases]
  exact .past (ready_performs 3) (.past (command_performs 4 _ _) (.past csdReceive_performs (.past (ready_performs 13)
    (.past (command_performs 14 _ _) (.past ((receiveRegister_performs 16 16).require 15 _) (.left scrUnlessMmc_performs.stuck))))))

end Sys2Proof.Machine
end

section
/-! SUPPORT. The buffer access the platform does not admit (20_memory.md R55). -/
namespace Sys2Proof.Machine
variable {s t u : State} {phs : List Phase} {p : Part} {ps : List Part} {ph : Phase}

/-! ### Consecutive parts -/

/-- The phase sends a block. -/
def Phase.sends : Phase → Bool
  | .send _ _ => true
  | .ready | .command _ _ | .gap _ | .receive _ _ | .busy _ => false

/-- The phase receives a block. -/
def Phase.receives : Phase → Bool
  | .receive _ _ => true
  | .ready | .command _ _ | .gap _ | .send _ _ | .busy _ => false

/-- The part reads nothing from buffer memory. -/
def Part.ReadsNothing (p : Part) : Prop := ∀ w buf m m', p.events w buf m = p.events w buf m'

/-- The part stores nothing there. -/
def Part.StoresNothing (p : Part) : Prop := ∀ w buf m, p.store w buf m = m

theorem Phase.readsNothing (h : ph.Passes s p ∨ ph.Sticks s p) (hs : ph.sends = false) : p.ReadsNothing := by
  intro w buf m m'
  cases ph with
  | send => cases hs
  | ready | command | gap | busy => obtain ⟨_, rfl, -⟩ | h := h; exacts [rfl, h.elim]
  | receive =>
    obtain ⟨_, rfl, -⟩ | ⟨_, _, _, rfl, -⟩ := h
    · rfl
    · rfl

theorem Phase.storesNothing (h : ph.Passes s p ∨ ph.Sticks s p) (hr : ph.receives = false) : p.StoresNothing := by
  intro w buf m
  cases ph with
  | receive => cases hr
  | ready | command | gap | busy => obtain ⟨_, rfl, -⟩ | h := h; exacts [rfl, h.elim]
  | send =>
    obtain ⟨_, rfl, -⟩ | ⟨_, _, rfl, -⟩ := h
    · rfl
    · rfl

/-- No operation both receives blocks and sends some. -/
theorem phases_oneWay (s : State) (i : Instr) :
    (∀ ph ∈ phases s i ++ loopPhases s i, ph.sends = false) ∨ ∀ ph ∈ phases s i ++ loopPhases s i, ph.receives = false := by
  cases i
  case wr1 | wrn =>
    right
    simp only [phases, loopPhases, List.forall_mem_append, List.forall_mem_cons, List.forall_mem_map]
    simp +contextual [Phase.receives, or_imp]
  case info =>
    left
    simp only [phases, loopPhases, apply_ite]
    split <;> simp [Phase.sends]
  all_goals
    left
    simp +contextual [phases, loopPhases, Phase.sends]

/-- What consecutive parts of one way leave. -/
theorem plays_eq (h : (∀ p ∈ ps, p.ReadsNothing) ∨ ∀ p ∈ ps, p.StoresNothing) (t : State) : ps.foldl Part.run t = { t with
    card := t.card.drop (partsBytes ps).length, xchgs := t.xchgs + (partsBytes ps).length,
    trace := (ps.flatMap (Part.events t.cfg.bufAddrWidth t.lBuf.toNat t.mem)).reverse ++ t.trace,
    lastR1 := ps.foldl Part.lastR1 t.lastR1, lastDresp := ps.foldl Part.lastDresp t.lastDresp,
    mem := ps.foldl (Part.store t.cfg.bufAddrWidth t.lBuf.toNat) t.mem } := by
  induction ps generalizing t with
  | nil => rfl
  | cons p ps ih =>
    have later : ps.flatMap (Part.events t.cfg.bufAddrWidth t.lBuf.toNat (p.store t.cfg.bufAddrWidth t.lBuf.toNat t.mem)) =
        ps.flatMap (Part.events t.cfg.bufAddrWidth t.lBuf.toNat t.mem) := by
      obtain h | h := h
      · exact List.flatMap_congr fun q hq => h q (by simp [hq]) _ _ _ _
      · rw [h p (by simp)]
    rw [List.foldl_cons, ih (h.imp (fun h q hq => h q (by simp [hq])) fun h q hq => h q (by simp [hq]))]
    simp [Part.run, partsBytes, later, Nat.add_assoc]

/-- Phases that pass, and then one that is stuck. -/
theorem Sticking.of_passes {pre post : List Phase} (ha : ∀ x ∈ pre, x.Admitted s) (hp : List.Forall₂ (fun x y => x.Passes s y) pre ps)
    (hs : ph.Sticks s p) : Sticking s (pre ++ ph :: post) (ps ++ [p]) := by
  induction hp with
  | nil => exact .here hs
  | cons h _ ih => exact .later ⟨ha _ (by simp), h⟩ (ih fun x hx => ha x (by simp [hx]))

/-- Each part is one of a phase. -/
theorem Sticking.phase {ps : List Part} (h : Sticking s phs ps) : ∀ p ∈ ps, ∃ ph ∈ phs, ph.Passes s p ∨ ph.Sticks s p := by
  induction h with
  | @here ph post p h =>
    intro q hq
    obtain rfl : q = p := by simpa using hq
    exact ⟨ph, by simp, .inr h⟩
  | @later ph phs p ps h _ ih =>
    intro q hq
    obtain rfl | hq := List.mem_cons.1 hq
    · exact ⟨ph, by simp, .inl h.2⟩
    · obtain ⟨x, hx, hq⟩ := ih q hq
      exact ⟨x, by simp [hx], hq⟩

/-- The parts of an operation are of one way. -/
theorem Sticking.oneWay {i : Instr} (h : Sticking s (phases s i ++ loopPhases s i) ps) :
    (∀ p ∈ ps, p.ReadsNothing) ∨ ∀ p ∈ ps, p.StoresNothing := by
  refine (phases_oneWay s i).imp (fun k p hp => ?_) fun k p hp => ?_ <;> obtain ⟨ph, hm, hph⟩ := h.phase p hp
  · exact Phase.readsNothing hph (k ph hm)
  · exact Phase.storesNothing hph (k ph hm)

/-! ### A started operation -/

theorem started_working (op : BitVec 4) (q : Quiet s) : Working s (started op s) where
  quiet := q
  reqOld := rfl
  cfg := rfl
  lBuf := rfl
  lArg0 := rfl
  lArg1 := rfl
  family := rfl
  seq := by unfold started firstStatement; split <;> rfl

/-- Every operation with a phase is stuck where one of them is. -/
theorem exec_opens {i : Instr} {op : BitVec 4} (h : i.opCode? = some op) (hs : Sticking s (phases s i ++ loopPhases s i) ps) :
    ∃ body rest, exec i s = .next (start op body s) ∧ Chooses s body rest ∧ Stuck s rest (phases s i ++ loopPhases s i) := by
  cases i
  case rd1 => obtain ⟨rest, h₁, h₂⟩ := bodyRd1_performs s; cases h; exact ⟨_, rest, rfl, h₁, h₂.stuck⟩
  case wr1 => obtain ⟨rest, h₁, h₂⟩ := bodyWr1_performs s; cases h; exact ⟨_, rest, rfl, h₁, h₂.stuck⟩
  case erase => obtain ⟨rest, h₁, h₂⟩ := bodyErase_performs s; cases h; exact ⟨_, rest, rfl, h₁, h₂.stuck⟩
  case stat => obtain ⟨rest, h₁, h₂⟩ := bodyStat_performs s; cases h; exact ⟨_, rest, rfl, h₁, h₂.stuck⟩
  case rdn => obtain ⟨rest, hr⟩ := bodyRdn_stuck s; cases h; exact ⟨_, rest, rfl, hr⟩
  case wrn => obtain ⟨rest, hr⟩ := bodyWrn_stuck s; cases h; exact ⟨_, rest, rfl, hr⟩
  case info => obtain ⟨rest, hr⟩ := bodyInfo_stuck s; cases h; exact ⟨_, rest, rfl, hr⟩
  all_goals exact nomatch hs

/-- A stuck operation has no successor while nothing arrives (D38). -/
theorem step_stuck (hseq : u.seq.fetch? = none) (hb : u.busy = true) (q : Quiet u) : step u = .fault .stuckOnBuffer := by
  rw [step, turn, hseq]
  simp only [arrivals, show u.inbox = [] from q, hb, if_true]

/-- Settles O42: the body is stuck at the access, whichever phase it is in, and SEQ stays inside the operation. -/
theorem unadmittedAccessIsStuck : Obligations.UnadmittedAccessIsStuck := by
  intro s i op pre post ph ps p rest hop hpre hb q hphs hadm hpass hst hc
  have hs : Sticking s (phases s i ++ loopPhases s i) (ps ++ [p]) := hphs ▸ .of_passes hadm hpass hst
  obtain ⟨body, tail, hex, hopen, hstuck⟩ := exec_opens hop hs
  obtain ⟨u₀, e₀, l₀, n₀⟩ := hopen _ (started_working op q)
  obtain ⟨u, e, hseq, hu⟩ := hstuck u₀ _ rest l₀ hs (by rw [n₀]; exact hc)
  have hrun : exec i s = .next u := by rw [hex, start_runs hb body hpre]; exact congrArg _ (run_stuck (e₀.trans e))
  have hu := hu.trans (Loose.plays _ n₀.loose)
  rw [plays_eq hs.oneWay] at hu
  have hbusy : u.busy = true := congrArg State.busy hu
  have hinbox : u.inbox = [] := (congrArg State.inbox hu).trans q
  have hcard : u.card = rest := (congrArg State.card hu).trans ((congrArg _ hc).trans List.drop_left)
  have htrace : u.trace = (partsEvents s (ps ++ [p])).reverse ++ .select :: s.trace := congrArg State.trace hu
  exact ⟨u, hrun, hbusy, congrArg State.done hu, (congrArg State.result hu).trans rfl, congrArg State.cs hu, hinbox, hcard,
    congrArg State.mem hu, by rw [Emits, htrace, selectEvents]; simp, step_stuck hseq hbusy hinbox⟩

end Sys2Proof.Machine
end

section
/-! SUPPORT. The successful path of a data operation (43_block_transfer.md R172, R174, R176; 44_register_ops.md R203). -/
namespace Sys2Proof.Machine
variable {s t u : State} {phs : List Phase} {p : Part} {ps : List Part} {ph : Phase} {i : Instr} {op : BitVec 4} {w c : List Byte} {rest : List Byte}

theorem Passed.phase (h : Passed s phs ps) : ∀ p ∈ ps, ∃ ph ∈ phs, ph.Passes s p := by
  induction h with
  | nil => simp
  | @cons ph p phs ps h _ ih =>
    refine List.forall_mem_cons.2 ⟨⟨ph, by simp, h.2⟩, fun q hq => ?_⟩
    obtain ⟨x, hx, hq⟩ := ih q hq
    exact ⟨x, by simp [hx], hq⟩

/-- The parts of an operation are of one way. -/
theorem Passed.oneWay (h : Passed s phs ps) (hsub : phs ⊆ phases s i ++ loopPhases s i) :
    (∀ p ∈ ps, p.ReadsNothing) ∨ ∀ p ∈ ps, p.StoresNothing := by
  refine (phases_oneWay s i).imp (fun k p hp => ?_) fun k p hp => ?_ <;> obtain ⟨ph, hm, hph⟩ := h.phase p hp
  · exact Phase.readsNothing (.inl hph) (k ph (hsub hm))
  · exact Phase.storesNothing (.inl hph) (k ph (hsub hm))

/-- What an operation has made of the state after these parts, the counters and hidden fields apart. -/
def playedState (op : BitVec 4) (s : State) (ps : List Part) : State := { latch op s with
  cs := true, lastR1 := ps.foldl Part.lastR1 s.lastR1, lastDresp := ps.foldl Part.lastDresp s.lastDresp, mem := partsStore s ps,
  card := s.card.drop (partsBytes ps).length, xchgs := s.xchgs + (partsBytes ps).length,
  trace := (selectEvents ++ partsEvents s ps).reverse ++ s.trace }

theorem playedState_card (op : BitVec 4) (hc : s.card = partsBytes ps ++ rest) : (playedState op s ps).card = rest :=
  (congrArg _ hc).trans List.drop_left

theorem runs_playedState (h : Passed s phs ps) (hsub : phs ⊆ phases s i ++ loopPhases s i) :
    Near (ps.foldl Part.run (chosen (started op s))) (playedState op s ps) := by
  rw [plays_eq (h.oneWay hsub)]
  simp [Near, near, playedState, chosen, started, latch, partsStore, partsEvents, selectEvents]

/-- No operation but INFO fills CSD_SHADOW (R40). -/
theorem exec_csdShadow (h : i.opCode? = some op) (hi : i ≠ .info) (q : Quiet s) (ht : exec i s = .next t) : t.csdShadow = s.csdShadow := by
  obtain ⟨u, hu, he⟩ := exec_calm (L := labelsOf i ++ epilogueLabels) h q (by simp) ((calm_holds _).mono (by simp)).finishes
  obtain ⟨-, -, -, -, -, hinfo, -⟩ := labelsOf_owner h
  obtain rfl : u = t := Host.Outcome.next.inj (hu.symm.trans ht)
  have csd : Label.csd ∉ labelsOf i ++ epilogueLabels := by simp [(hinfo hi).1, epilogueLabels]
  obtain rfl | ⟨v, hv, rfl | ⟨o, rfl⟩⟩ := he
  · rfl
  · exact hv.csdShadow csd
  · exact hv.csdShadow csd

/-- What an operation leaves whose phases pass in these parts, of `n` exchanges with the trailing byte. -/
def passedState (op : BitVec 4) (s : State) (phs : List Phase) (ps : List Part) (n : Nat) (trail : Byte)
    (rest : List Byte) : State := { latch op s with
  cs := false, lastR1 := ps.foldl Part.lastR1 s.lastR1, lastDresp := ps.foldl Part.lastDresp s.lastDresp,
  tries := (runs (latch op s) phs ps).tries, byteIdx := (runs (latch op s) phs ps).byteIdx,
  mem := partsStore s ps, card := rest, xchgs := s.xchgs + n,
  trace := (selectEvents ++ partsEvents s ps ++ releaseEvents trail).reverse ++ s.trace }

/-- The byte and try counters after phases depend on those before, and on the parameters. -/
theorem runs_counters (phs : List Phase) : ∀ {t u : State} (ps : List Part), t.cfg = u.cfg → t.tries = u.tries → t.byteIdx = u.byteIdx →
    (runs t phs ps).tries = (runs u phs ps).tries ∧ (runs t phs ps).byteIdx = (runs u phs ps).byteIdx := by
  induction phs with
  | nil => exact fun _ _ h₁ h₂ => ⟨h₁, h₂⟩
  | cons ph phs ih =>
    intro t u ps h h₁ h₂
    cases ps with
    | nil => exact ⟨h₁, h₂⟩
    | cons p ps =>
      refine ih ps h ?_ ?_
      · cases ph <;> simp [Phase.run, Part.run, Phase.tries, h, h₁]
      · cases ph with
        | receive n off => cases n <;> simp [Phase.run, Phase.byteIdx, h₂]
        | _ => simp [Phase.run, Phase.byteIdx, h₂]

/-- Phases that pass keep the sector counter and RES. -/
theorem runs_keep (phs : List Phase) : ∀ (t : State) (ps : List Part), (runs t phs ps).sector = t.sector ∧ (runs t phs ps).res = t.res := by
  induction phs with
  | nil => exact fun _ _ => ⟨rfl, rfl⟩
  | cons ph phs ih =>
    intro t ps
    cases ps with
    | nil => exact ⟨rfl, rfl⟩
    | cons p ps => exact ih (ph.run t p) ps

theorem run_congr {body body' : Blk Unit} (e : body t = body' u) : run body t = run body' u := by rw [run, run, e]

/-- An operation whose phases pass comes to the rest of its body. -/
theorem exec_comesTo {body k : Blk Unit} (hex : exec i s = .next (start op body s)) (hb : ∃ rest, Chooses s body rest ∧ ComesTo s rest phs k)
    (q : Quiet s) (hbusy : s.busy = false) (hpre : preCheck op s = none) (hp : Passed s phs ps) (hc : s.card = partsBytes ps ++ rest) :
    ∃ u, exec i s = .next (run k u) ∧ Working s u ∧ Near u (runs (chosen (started op s)) phs ps) := by
  obtain ⟨tail, hopen, hlead⟩ := hb
  obtain ⟨u₀, e₀, l₀, n₀⟩ := hopen _ (started_working op q)
  obtain ⟨u, e, l, nu⟩ := hlead u₀ ps _ l₀ hp (by rw [n₀]; exact hc)
  exact ⟨u, by rw [hex, start_runs hbusy body hpre]; exact congrArg _ (run_congr (e₀.trans e)), l, nu.trans (n₀.runs _ _)⟩

/-- Where the rest of the body ends well, the operation completes OK; and CSD_SHADOW is as it was. -/
theorem exec_released (h : i.opCode? = some op) (hi : i ≠ .info) (q : Quiet s) {k : Blk Unit} (hrun : exec i s = .next (run k u)) {v : State}
    (e : k u = .ok () v) (qv : Quiet v) (hcs : v.cs = true) {trail : Byte} (hc : v.card = trail :: rest) :
    exec i s = .next (complete .ok (released v trail)) ∧ v.csdShadow = s.csdShadow := by
  have hend := hrun.trans (congrArg _ ((run_ok e).trans (finishRun_selected qv hcs .ok hc)))
  exact ⟨hend, exec_csdShadow (t := complete .ok (released v trail)) h hi q hend⟩

/-- The successful path. -/
theorem exec_passes (h : i.opCode? = some op) (hi : i ≠ .info) {body : Blk Unit} (hex : exec i s = .next (start op body s))
    (hb : ∃ rest, Chooses s body rest ∧ Performs s rest () (phases s i)) (q : Quiet s) (hbusy : s.busy = false)
    (hpre : preCheck op s = none) (hp : Passed s (phases s i) ps) {trail : Byte} (hc : s.card = partsBytes ps ++ trail :: rest)
    {n : Nat} (hn : (partsBytes ps).length + 1 = n) : exec i s = .next (complete .ok (passedState op s (phases s i) ps n trail rest)) := by
  obtain ⟨tail, hopen, hperf⟩ := hb
  obtain ⟨u, hrun, l, hu⟩ := exec_comesTo hex ⟨tail, hopen, hperf.gets⟩ q hbusy hpre hp hc
  have hl := (runs_loose (phases s i) (chosen (started op s)) ps hp.length_eq).trans (runs_playedState (i := i) hp (by simp)).loose
  obtain ⟨htries, hidx⟩ := runs_counters (phases s i) (t := chosen (started op s)) (u := latch op s) ps rfl rfl rfl
  obtain ⟨hrun, hcsd⟩ := exec_released h hi q hrun rfl l.quiet (by rw [hu, hl]; rfl) (by rw [hu, hl]; exact playedState_card op hc)
  obtain ⟨hsector, hres⟩ := runs_keep (phases s i) (chosen (started op s)) ps
  rw [hrun, ← hn, hu, hl]
  simp only [complete, released, passedState, near, loose, hcsd, htries, hidx, hsector, hres]
  simp [hc, playedState, chosen, started, latch, releaseEvents, Nat.add_assoc]

/-! ### The operations -/

/-- LAST_R1 is the last byte of a reply (R102). -/
theorem CommandReply.getLast? {idx r : Byte} {l : List Byte} (h : CommandReply s idx r l) : l.getLast? = some r := by
  obtain ⟨junk, polls, -, -, -, -, rfl⟩ := h
  simp

/-- An accepted block is one without its busy phase, and that phase (R127, R174). -/
theorem BlockOut.Good.passes {b : BlockOut} (h : b.Good s) (token : Byte) (off : Nat) :
    (Phase.send token off).Passes s (.blockOut token off { b with busy := [] }) ∧
      (Phase.busy s.cfg.writeBusyTries).Passes s (.polls b.busy) := by
  obtain ⟨hl, hcrc, hd, hw⟩ := h
  exact ⟨⟨_, rfl, hl, hcrc, rfl, by simpa [Machine.drespAccepted, drespMask] using hd⟩, b.busy, rfl, hw⟩

/-- Settles O24: the wait-ready, CMD17 and the block pass. -/
theorem rd1ReadsSector : Obligations.Rd1ReadsSector := by
  intro s w c b trail rest q hr ha hw hc hb hcard
  have hp : Passed s (phases s .rd1) [.polls w, .command 17#8 (adjust s.family s.arg0) 0x00#8 c, .blockIn 0 b] :=
    .cons ⟨trivial, w, rfl, hw⟩ (.cons ⟨trivial, c, rfl, hc⟩ (.cons ⟨ha, b, rfl, hb⟩ .nil))
  have hpre : preCheck 0x4#4 s = none := preCheck_ready (by decide) (by decide) hr.2 fun h => absurd h (by decide)
  rw [exec_passes rfl (by decide) rfl (bodyRd1_performs s) q hr.1 hpre hp (trail := trail) (rest := rest)
    (by simp [hcard, partsBytes, Part.bytes]) (n := w.length + c.length + (b.wait.length + 512 + 2) + 1)
    (by simp [partsBytes, Part.bytes, hb.length]; omega)]
  simp [passedState, Part.bytes, Part.lastR1, Part.lastDresp, partsStore, Part.store, partsEvents, Part.events, phases, runs, Phase.run,
    Part.run, Phase.tries, Phase.byteIdx, hc.getLast?, hb.length, Nat.add_assoc]

/-- Settles O28: the wait-ready, CMD24, the gap, the block and its busy wait pass. -/
theorem wr1WritesSector : Obligations.Wr1WritesSector := by
  intro s w c gap b trail rest q hr ha hw hc hg hb hcard
  obtain ⟨hsend, hbusy⟩ := hb.passes 0xFE#8 0
  obtain ⟨hl, hcrc, hd, -⟩ := hb
  have hd : b.dresp &&& 0x0E#8 = 0x04#8 := by simpa [drespAccepted, drespMask] using hd
  have hp : Passed s (phases s .wr1) [.polls w, .command 24#8 (adjust s.family s.arg0) 0x00#8 c, .polls gap,
      .blockOut 0xFE#8 0 { b with busy := [] }, .polls b.busy] :=
    .cons ⟨trivial, w, rfl, hw⟩ (.cons ⟨trivial, c, rfl, hc⟩ (.cons ⟨trivial, gap, rfl, hg⟩ (.cons ⟨ha, hsend⟩
      (.cons ⟨trivial, hbusy⟩ .nil))))
  have hpre : preCheck 0x6#4 s = none := preCheck_ready (by decide) (by decide) hr.2 fun h => absurd h (by decide)
  rw [exec_passes rfl (by decide) rfl (bodyWr1_performs s) q hr.1 hpre hp (trail := trail) (rest := rest)
    (by simp [hcard, partsBytes, Part.bytes, BlockOut.bytes]) (n := w.length + c.length + gap.length + 516 + b.busy.length + 1)
    (by simp [partsBytes, Part.bytes, BlockOut.bytes, hl, hcrc]; omega)]
  simp [passedState, Part.bytes, BlockOut.bytes, Part.lastR1, Part.lastDresp, partsStore, Part.store, partsEvents, Part.events, BlockOut.events,
    phases, runs, Phase.run, Part.run, Phase.tries, Phase.byteIdx, hc.getLast?, hl, hcrc, hd, pollEvents, xchgEvents, Nat.add_assoc]
  
/-- Settles O32: the wait-ready, the three commands and the erase-busy wait pass. -/
theorem eraseErases : Obligations.EraseErases := by
  intro s w e cs trail rest q hr hf hw hcs he hcard
  obtain _ | ⟨c₁, _ | ⟨c₂, _ | ⟨c₃, cs⟩⟩⟩ := cs
  case nil | cons.nil | cons.cons.nil => simp [CommandReplies] at hcs
  obtain ⟨h₁, h₂, h₃, rfl⟩ := hcs
  have hp : Passed s (phases s .erase) [.polls w, .command 32#8 (adjust s.family s.arg0) 0x00#8 c₁,
      .command 33#8 (adjust s.family s.arg1) 0x00#8 c₂, .command 38#8 0x00000000#32 0x00#8 c₃, .polls e] :=
    .cons ⟨trivial, w, rfl, hw⟩ (.cons ⟨trivial, c₁, rfl, h₁⟩ (.cons ⟨trivial, c₂, rfl, h₂⟩ (.cons ⟨trivial, c₃, rfl, h₃⟩
      (.cons ⟨trivial, e, rfl, he⟩ .nil))))
  have hpre : preCheck 0x8#4 s = none := preCheck_ready (by decide) (by decide) hr.2 fun _ => hf
  rw [exec_passes rfl (by decide) rfl (bodyErase_performs s) q hr.1 hpre hp (trail := trail) (rest := rest)
    (by simp [hcard, partsBytes, Part.bytes]) (n := w.length + [c₁, c₂, c₃].flatten.length + e.length + 1)
    (by simp [partsBytes, Part.bytes]; omega)]
  simp [passedState, Part.bytes, Part.lastR1, Part.lastDresp, partsStore, Part.store, partsEvents, Part.events, commandsEvents, phases, runs,
    Phase.run, Part.run, Phase.tries, Phase.byteIdx, h₃.getLast?, Nat.add_assoc]

/-- Settles O35: the wait-ready, CMD55 and ACMD13, the second R2 byte and the block pass. -/
theorem statReadsStatus : Obligations.StatReadsStatus := by
  intro s w c₅₅ c₁₃ r b trail rest q hr hf ha hw h₅₅ h₁₃ hb hcard
  have hp : Passed s (phases s .stat) [.polls w, .command 55#8 0x00000000#32 0x00#8 c₅₅, .command 13#8 0x00000000#32 0x00#8 c₁₃, .polls [r],
      .blockIn 0 b] :=
    .cons ⟨trivial, w, rfl, hw⟩ (.cons ⟨trivial, c₅₅, rfl, h₅₅⟩ (.cons ⟨trivial, c₁₃, rfl, h₁₃⟩ (.cons ⟨trivial, [r], rfl, rfl⟩
      (.cons ⟨ha, b, rfl, hb⟩ .nil))))
  have hpre : preCheck 0xA#4 s = none := preCheck_ready (by decide) (by decide) hr.2 fun _ => hf
  rw [exec_passes rfl (by decide) rfl (bodyStat_performs s) q hr.1 hpre hp (trail := trail) (rest := rest)
    (by simp [hcard, partsBytes, Part.bytes]) (n := w.length + c₅₅.length + c₁₃.length + 1 + (b.wait.length + 66) + 1)
    (by simp [partsBytes, Part.bytes, hb.length]; omega)]
  simp [passedState, Part.bytes, Part.lastR1, Part.lastDresp, partsStore, Part.store, partsEvents, Part.events, phases, runs, Phase.run,
    Part.run, Phase.tries, Phase.byteIdx, h₁₃.getLast?, hb.length, Nat.add_assoc]

end Sys2Proof.Machine
end

section
/-! SUPPORT. The successful paths of RDN and WRN (43_block_transfer.md R173, R175). -/
namespace Sys2Proof.Machine
variable {s t u : State} {ps : List Part} {rest : List Byte}

theorem returnRes_ok (h : t.res = .ok) : returnRes t = .ok () t := by
  rw [returnRes, blk_bind_ok (blk_get t), h]
  rfl

/-- An accepted stop command changes nothing (R173). -/
theorem checkStop_accepted (q : Quiet t) {r : Byte} (h : accepted r = true) : checkStop r t = .ok () { t with seq := .body 12 1 } := by
  rw [checkStop, blk_bind_ok (line_quiet q 12), blk_bind_ok (blk_get _), if_neg (by simp [h])]
  rfl

/-- The closing wait-ready succeeds (R175). -/
theorem closeWait_idle (q : Quiet t) {l : List Byte} (h : IdleReply t l) (hc : t.card = l ++ rest) :
    closeWait t = .ok () (polled { t with seq := .body 19 1 } t.cfg.idleWaitTries l) := by
  rw [closeWait, blk_bind_ok (line_quiet q 19), blk_bind_ok (waitIdle_quiet (s := { t with seq := .body 19 1 }) q h hc)]
  rfl

/-! ### RDN -/

/-- RDN's transfer where every sector comes and the stop command is accepted. -/
theorem rdnTransfer_ok (q : Quiet t) (hr : t.reqOld = []) {bs : List BlockIn} {c : List Byte} (hb : ∀ b ∈ bs, b.Good t 512)
    (ha : WritesAdmitted t t.lBuf.toNat (512 * bs.length)) (h : CommandReply t 12#8 0x00#8 c)
    (hc : t.card = (bs.map BlockIn.bytes).flatten ++ (c ++ rest)) : ∃ v, rdnTransfer bs.length t = .ok () v ∧ v = { t with
      seq := v.seq, sector := v.sector, byteIdx := v.byteIdx, tries := v.tries, blkOld := v.blkOld, res := .ok, lastR1 := 0x00#8,
      mem := sectorsStored t.cfg.bufAddrWidth t.lBuf.toNat bs t.mem, card := rest,
      xchgs := t.xchgs + ((bs.map BlockIn.bytes).flatten.length + c.length),
      trace := (sectorsInEvents t.cfg.bufAddrWidth t.lBuf.toNat bs ++ commandEvents 12#8 0x00000000#32 0x00#8 c).reverse ++ t.trace } := by
  obtain ⟨u, e, hu⟩ := rdnLoop_quiet (k := 0) (s := { t with seq := .body 6 1, res := .ok }) q hr hc hb ha 0
  have q₇ : Quiet u := by rw [hu]; exact q
  have hcfg : u.cfg = t.cfg := by rw [hu]
  have e₁₂ := sendCommand_quiet (s := { u with seq := .body 11 1 }) q₇ (idx := 12#8) (arg := 0x00000000#32) (crc := 0x00#8) (r := 0x00#8) (l := c)
    (rest := rest) (by simpa only [CommandReply, hcfg] using h) (by rw [hu])
  refine ⟨{ answered u 12#8 0x00000000#32 0x00#8 0x00#8 c with seq := .body 13 1 }, ?_, ?_⟩
  · refine (blk_bind_ok (line_quiet q 6) _).trans ((blk_bind_ok (setRes_apply .ok _) _).trans
      ((blk_bind_ok (e.trans (line_quiet q₇ 7)) _).trans ((blk_bind_ok (line_quiet ?_ 11) _).trans ((blk_bind_ok e₁₂ _).trans
        ((blk_bind_ok (checkStop_accepted ?_ rfl) _).trans ((blk_bind_ok (line_quiet ?_ 13) _).trans (returnRes_ok ?_)))))))
    · exact q₇
    · exact q₇
    · exact q₇
    · rw [hu]; rfl
  · rw [hu]
    simp [answered, heard, commandEvents, Nat.add_assoc]

/-- Settles O26: the opening passes, and the transfer closes with no failure kept in RES. -/
theorem rdnReadsSectors : Obligations.RdnReadsSectors := by
  intro s w c₁₂ c₁₈ bs trail rest q hr ha hw h₁₈ hn hb h₁₂ hcard
  have hp : Passed s (phases s .rdn) [.polls w, .command 18#8 (adjust s.family s.arg0) 0x00#8 c₁₈] :=
    .cons ⟨trivial, w, rfl, hw⟩ (.cons ⟨trivial, c₁₈, rfl, h₁₈⟩ .nil)
  have hpre : preCheck 0x5#4 s = none := preCheck_ready (by decide) (by decide) hr.2 fun h => absurd h (by decide)
  have hc : s.card = partsBytes [.polls w, .command 18#8 (adjust s.family s.arg0) 0x00#8 c₁₈] ++
      ((bs.map BlockIn.bytes).flatten ++ (c₁₂ ++ trail :: rest)) := by simp [hcard, partsBytes, Part.bytes]
  obtain ⟨tail, hopen, hreach⟩ := bodyRdn_reaches s
  obtain ⟨u, hrun, l, hu⟩ := exec_comesTo (i := .rdn) rfl ⟨tail, hopen, hreach.comesTo⟩ q hr.1 hpre hp hc
  have hu : Loose u (playedState 0x5#4 s _) := hu.loose.trans ((runs_loose _ _ _ hp.length_eq).trans (runs_playedState (i := .rdn) hp (by simp)).loose)
  obtain ⟨v, e, hv⟩ := rdnTransfer_ok l.quiet l.reqOld (t := u) (bs := bs) (c := c₁₂) (rest := trail :: rest)
    (fun b hm => by simpa only [BlockIn.Good, TokenReply, l.cfg] using hb b hm)
    (l.writesAdmitted (off := 0) (by rw [hn]; exact ha)) (by simpa only [CommandReply, l.cfg] using h₁₂)
    (by rw [hu]; exact playedState_card 0x5#4 hc)
  rw [hn] at e
  obtain ⟨hrun, hcsd⟩ := exec_released rfl (by decide) q hrun e (by rw [hv]; exact l.quiet) (by rw [hv, hu]; rfl) (by rw [hv])
  replace hcsd : u.csdShadow = s.csdShadow := (congrArg State.csdShadow hv).symm.trans hcsd
  refine ⟨_, hrun, ?_⟩
  rw [hv, hu]
  simp only [complete, released, loose, near, playedState, hcsd]
  simp [partsBytes, Part.bytes, Part.lastDresp, partsStore, Part.store, partsEvents, Part.events, latch, releaseEvents, Nat.add_assoc]

/-! ### Consecutive commands -/

variable {cmds : List (Byte × Word)} {ls : List (List Byte)}

/-- The parts of consecutive commands (R75). -/
def commandParts (cmds : List (Byte × Word)) (ls : List (List Byte)) : List Part := List.zipWith (fun c l => .command c.1 c.2 0x00#8 l) cmds ls

/-- Each of them passes (R171). -/
theorem CommandReplies.passed : ∀ {cmds : List (Byte × Word)} {ls : List (List Byte)}, CommandReplies s cmds ls →
    Passed s (cmds.map fun c => .command c.1 c.2) (commandParts cmds ls)
  | [], _, _ => .nil
  | _ :: _, _ :: _, ⟨h, hs⟩ => .cons ⟨trivial, _, rfl, h⟩ hs.passed

theorem CommandReplies.bytes : ∀ {cmds : List (Byte × Word)} {ls : List (List Byte)}, CommandReplies s cmds ls →
    partsBytes (commandParts cmds ls) = ls.flatten
  | [], _, h => by rw [show _ = [] from h]; rfl
  | _ :: _, _ :: _, ⟨_, hs⟩ => congrArg (_ ++ ·) hs.bytes

theorem commandParts_events (w buf : Nat) (m : List Host.Cell) : ∀ (cmds : List (Byte × Word)) (ls : List (List Byte)),
    (commandParts cmds ls).flatMap (Part.events w buf m) = commandsEvents cmds ls
  | [], _ | _ :: _, [] => rfl
  | _ :: cmds, _ :: ls => congrArg (_ ++ ·) (commandParts_events w buf m cmds ls)

theorem commandParts_store (w buf : Nat) (m : List Host.Cell) : ∀ (cmds : List (Byte × Word)) (ls : List (List Byte)),
    (commandParts cmds ls).foldl (Part.store w buf) m = m
  | [], _ | _ :: _, [] => rfl
  | _ :: cmds, _ :: ls => commandParts_store w buf m cmds ls

theorem commandParts_lastDresp (d : Byte) : ∀ (cmds : List (Byte × Word)) (ls : List (List Byte)),
    (commandParts cmds ls).foldl Part.lastDresp d = d
  | [], _ | _ :: _, [] => rfl
  | _ :: cmds, _ :: ls => commandParts_lastDresp d cmds ls

/-- The last of them leaves 0x00 in LAST_R1 (R36). -/
theorem CommandReplies.lastR1 : ∀ {cmds : List (Byte × Word)} {ls : List (List Byte)}, CommandReplies s cmds ls → ∀ {r : Byte},
    r = 0x00#8 ∨ cmds ≠ [] → (commandParts cmds ls).foldl Part.lastR1 r = 0x00#8
  | [], _, _, _, hr => hr.resolve_right (· rfl)
  | _ :: _, _ :: _, ⟨h, hs⟩, _, _ => hs.lastR1 (.inl (by simp [Part.lastR1, h.getLast?]))

/-! ### WRN -/

/-- WRN's transfer where every block is accepted and the card becomes ready at the end. -/
theorem wrnTransfer_ok (q : Quiet t) (hr : t.reqOld = []) {bs : List BlockOut} {a₁ a₂ : Byte} {w : List Byte} (hb : ∀ b ∈ bs, b.Good t)
    (ha : ReadsAdmitted t t.lBuf.toNat (512 * bs.length)) (h : IdleReply t w)
    (hc : t.card = (bs.map BlockOut.bytes).flatten ++ (a₁ :: a₂ :: (w ++ rest))) : ∃ v, wrnTransfer bs.length t = .ok () v ∧ v = { t with
      seq := v.seq, sector := v.sector, byteIdx := v.byteIdx, tries := t.cfg.idleWaitTries - w.length, res := .ok,
      lastDresp := if bs = [] then t.lastDresp else 0x04#8, card := rest,
      xchgs := t.xchgs + ((bs.map BlockOut.bytes).flatten.length + 2 + w.length),
      trace := (sectorsOutEvents t.cfg.bufAddrWidth t.mem t.lBuf.toNat bs ++ [Event.xchg 0xFD#8 a₁, Event.xchg 0xFF#8 a₂] ++
        pollEvents w).reverse ++ t.trace } := by
  obtain ⟨u, e, hu⟩ := wrnLoop_quiet (k := 0) (s := { t with seq := .body 11 1, res := .ok }) q hr hc hb ha 0
  have q₁₂ : Quiet u := by rw [hu]; exact q
  have hcfg : u.cfg = t.cfg := by rw [hu]
  have hcard : u.card = a₁ :: a₂ :: (w ++ rest) := by rw [hu]
  have e₁₇ := xchg_quiet (s := { u with seq := .body 17 1 }) q₁₂ hcard stopToken
  have e₁₈ := fillers_quiet (n := 1) (s := { heard u [stopToken] [a₁] with seq := .body 18 1 }) q₁₂ (ins := [a₂]) (rest := w ++ rest)
    (by simp [hcard]) rfl
  have e₁₉ := closeWait_idle (t := heard { heard u [stopToken] [a₁] with seq := .body 18 1 } [filler] [a₂]) q₁₂ (l := w) (rest := rest)
    (by simpa only [IdleReply, heard_cfg, hcfg] using h) (by simp [hcard])
  refine ⟨{ polled (heard (heard u [stopToken] [a₁]) [filler] [a₂]) u.cfg.idleWaitTries w with seq := .body 21 1 }, ?_, ?_⟩
  · refine (blk_bind_ok (line_quiet q 11) _).trans ((blk_bind_ok (setRes_apply .ok _) _).trans
      ((blk_bind_ok (e.trans (line_quiet q₁₂ 12)) _).trans ((blk_bind_ok (line_quiet ?_ 17) _).trans ((blk_bind_ok e₁₇ _).trans
        ((blk_bind_ok (line_quiet ?_ 18) _).trans ((blk_bind_ok e₁₈ _).trans ((blk_bind_ok e₁₉ _).trans
          ((blk_bind_ok (line_quiet ?_ 21) _).trans (returnRes_ok ?_)))))))))
    · exact q₁₂
    · exact q₁₂
    · exact q₁₂
    · rw [hu]; rfl
  · rw [hu]
    simp [polled, withTries, heard, pollEvents, xchgEvents, stopToken, filler, Nat.add_assoc]

/-- The parts of WRN up to its gap. -/
def wrnOpening (s : State) (w gap : List Byte) (ls : List (List Byte)) : List Part :=
  .polls w :: (commandParts (announceCommands s ++ [(25#8, adjust s.family s.arg0)]) ls ++ [.polls gap])

theorem wrnOpening_bytes (w gap : List Byte) (h : CommandReplies s (announceCommands s ++ [(25#8, adjust s.family s.arg0)]) ls) :
    partsBytes (wrnOpening s w gap ls) = w ++ (ls.flatten ++ gap) := by
  rw [wrnOpening, partsBytes_cons, partsBytes_append, h.bytes]
  simp [partsBytes, Part.bytes]

theorem wrnOpening_passed {w gap : List Byte} (hw : IdleReply s w)
    (h : CommandReplies s (announceCommands s ++ [(25#8, adjust s.family s.arg0)]) ls) (hg : gap.length = s.cfg.writeGapBytes) :
    Passed s (phases s .wrn ++ [.gap s.cfg.writeGapBytes]) (wrnOpening s w gap ls) :=
  .cons ⟨trivial, w, rfl, hw⟩ (List.rel_append h.passed (.cons ⟨trivial, gap, rfl, hg⟩ .nil))

/-- Settles O30: the opening and the gap pass, and the transfer closes with no failure kept in RES. -/
theorem wrnWritesSectors : Obligations.WrnWritesSectors := by
  intro s w gap w₂ cs bs a₁ a₂ trail rest q hr ha hw hcs hg hn hb hw₂ hcard
  have hp := wrnOpening_passed hw hcs hg
  have hpre : preCheck 0x7#4 s = none := preCheck_ready (by decide) (by decide) hr.2 fun h => absurd h (by decide)
  have hc : s.card = partsBytes (wrnOpening s w gap cs) ++ ((bs.map BlockOut.bytes).flatten ++ (a₁ :: a₂ :: (w₂ ++ trail :: rest))) := by
    rw [hcard, wrnOpening_bytes w gap hcs]
    simp
  obtain ⟨tail, hopen, hreach⟩ := bodyWrn_reaches s
  obtain ⟨u, hrun, l, hu⟩ := exec_comesTo (i := .wrn) rfl ⟨tail, hopen, hreach.comesTo⟩ q hr.1 hpre hp hc
  have hu : Loose u (playedState 0x7#4 s _) := hu.loose.trans ((runs_loose _ _ _ hp.length_eq).trans
    (runs_playedState (i := .wrn) hp (by simp [loopPhases])).loose)
  obtain ⟨v, e, hv⟩ := wrnTransfer_ok l.quiet l.reqOld (t := u) (bs := bs) (a₁ := a₁) (a₂ := a₂) (w := w₂) (rest := trail :: rest)
    (fun b hm => by simpa only [BlockOut.Good, WrittenReply, l.cfg] using hb b hm)
    (l.readsAdmitted (off := 0) (by rw [hn]; exact ha)) (by simpa only [IdleReply, l.cfg] using hw₂)
    (by rw [hu]; exact playedState_card 0x7#4 hc)
  rw [hn] at e
  obtain ⟨hrun, hcsd⟩ := exec_released rfl (by decide) q hrun e (by rw [hv]; exact l.quiet) (by rw [hv, hu]; rfl) (by rw [hv])
  replace hcsd : u.csdShadow = s.csdShadow := (congrArg State.csdShadow hv).symm.trans hcsd
  refine ⟨_, hrun, ?_⟩
  rw [hv, hu]
  simp only [complete, released, loose, near, playedState, hcsd, wrnOpening_bytes w gap hcs]
  simp [wrnOpening, Part.lastR1, hcs.lastR1, commandParts_lastDresp, Part.lastDresp, partsStore, commandParts_store, Part.store, partsEvents, Part.events,
    commandParts_events, latch, releaseEvents, Nat.add_assoc]

end Sys2Proof.Machine
end

section
/-! SUPPORT. Racing buffer bytes (20_memory.md R64, 70_reset_and_hazards.md R255). -/
namespace Sys2Proof.Machine
variable {s t : State} {a : Nat} {v w kept cur : Byte} {olds : List Byte}

/-- A racing read gives one of the values. -/
theorem racePick_mem (s : State) (cur : Byte) (olds : List Byte) : (racePick s cur olds).1 ∈ cur :: olds := by
  unfold racePick
  split
  · simp
  · have hk : ∀ k, k % (olds.length + 1) < (cur :: olds).length := fun k => by simpa using Nat.mod_lt k (Nat.succ_pos _)
    simp only [List.getD_eq_getElem?_getD, List.getElem?_eq_getElem (hk _), Option.getD_some]
    exact List.getElem_mem _

/-- Each of them for some choice: the one at this place. -/
theorem racePick_reaches (s : State) (h : v ∈ cur :: olds) : ∃ p, (racePick { s with picks := [p] } cur olds).1 = v := by
  obtain ⟨p, hp, rfl⟩ := List.getElem_of_mem h
  refine ⟨p, ?_⟩
  unfold racePick
  split
  · obtain rfl := List.isEmpty_iff.1 ‹_›
    obtain rfl : p = 0 := by simpa using hp
    rfl
  · simp [Nat.mod_eq_of_lt (b := olds.length + 1) hp, List.getD_eq_getElem?_getD, List.getElem?_eq_getElem hp]

/-- Where both sides write the byte, each of the two values stands for some choice. -/
theorem raceWrite_reaches (s : State) (h : w = v ∨ w = cur) : ∃ p, (raceWrite { s with picks := [p] } cur v true).1 = w :=
  racePick_reaches s (by simpa using h)

theorem raceWrite_kept (s : State) (cur v : Byte) (raced : Bool) : (raceWrite s cur v raced).1 = v ∨ (raceWrite s cur v raced).1 = cur := by
  obtain ⟨w, p, n, e, h, -⟩ := raceWrite_cases s cur v raced
  rw [e]
  exact h

/-- The value that stands and the one that gave way are the two written. -/
theorem kept_or_loser (hk : kept = v ∨ kept = cur) (hw : w = v ∨ w = cur) : w = kept ∨ w = loser cur v kept := by
  unfold loser
  split
  · subst kept; exact hw
  · obtain rfl := hk.resolve_left ‹_›; exact hw.symm

/-- `t` after a raced write that leaves `kept` in the byte at `b`: the other value stays one the reads of both sides may give. -/
structure Raced (s : State) (b : Nat) (cur v kept : Byte) (t : State) : Prop where
  byte : memGet t.mem b = kept
  reqOld : t.reqOld = (b, loser cur v kept) :: s.reqOld
  blkOld : t.blkOld = (b, loser cur v kept) :: s.blkOld

/-- Whoever reads the byte then may be given either value. -/
theorem Raced.open {b : Nat} (h : Raced s b cur v kept t) (hk : kept = v ∨ kept = cur) (hw : w = v ∨ w = cur) :
    w ∈ memGet t.mem b :: oldValues b t.reqOld ∧ w ∈ memGet t.mem b :: oldValues b t.blkOld := by
  have both : ∀ old, w ∈ kept :: oldValues b ((b, loser cur v kept) :: old) := fun old => by
    rw [oldValues, if_pos rfl]
    rcases kept_or_loser hk hw with rfl | rfl <;> simp
  rw [h.byte, h.reqOld, h.blkOld]
  exact ⟨both _, both _⟩

/-! ### Block accesses -/

theorem memRead_racePick (q : Quiet s) (h : inRegions s.cfg.noRead (bufAddr s a) = false) :
    ∃ t, memRead a s = .ok (racePick s (memGet s.mem (bufAddr s a)) (oldValues (bufAddr s a) s.reqOld)).1 t := by
  rw [memRead, blk_bind_ok (sync_quiet q), blk_bind, blk_get]
  simp only [h]
  exact ⟨_, rfl⟩

/-- A block write of a byte the requester wrote too. -/
theorem memWrite_raced (hm : memWf s.mem = true) (q : Quiet s) (h : inRegions s.cfg.noWrite (bufAddr s a) = false)
    (hr : oldValues (bufAddr s a) s.reqOld ≠ []) (v : Byte) : ∃ t, memWrite a v s = .ok () t ∧
      Raced s (bufAddr s a) (memGet s.mem (bufAddr s a)) v (raceWrite s (memGet s.mem (bufAddr s a)) v true).1 t := by
  have raced : (!(oldValues (bufAddr s a) s.reqOld).isEmpty) = true := by simpa using hr
  obtain ⟨w, p, n, e, -, -⟩ := raceWrite_cases s (memGet s.mem (bufAddr s a)) v true
  rw [memWrite, blk_bind_ok (sync_quiet q), blk_bind, blk_get]
  simp only [h, raced, e]
  exact ⟨_, rfl, (memGet_memPut hm _ _ w).trans (if_pos rfl), rfl, rfl⟩

/-! ### Requester accesses -/

theorem requesterRead_rdata (hb : s.busy = true) (a : Nat) : (requesterRead s a).rdata =
    (racePick s (memGet s.mem (bufAddr s a)) (oldValues (bufAddr s a) s.blkOld)).1.setWidth 32 := by
  simp only [requesterRead, hb, if_true]

/-- A requester write of a byte the block has not written. -/
theorem requesterWrite_alone (hb : s.busy = true) (hr : oldValues (bufAddr s a) s.blkOld = []) (v : Byte) : requesterWrite s a v =
    { s with mem := memPut s.mem (bufAddr s a) v, reqOld := (bufAddr s a, memGet s.mem (bufAddr s a)) :: s.reqOld } := by
  simp [requesterWrite, hb, hr, raceWrite, racePick, loser]

/-- A requester write of a byte the block wrote too. -/
theorem requesterWrite_raced (hm : memWf s.mem = true) (hb : s.busy = true) (hr : oldValues (bufAddr s a) s.blkOld ≠ []) (v : Byte) :
    Raced s (bufAddr s a) (memGet s.mem (bufAddr s a)) v (raceWrite s (memGet s.mem (bufAddr s a)) v true).1 (requesterWrite s a v) := by
  have raced : (true && !(oldValues (bufAddr s a) s.blkOld).isEmpty) = true := by simpa using hr
  obtain ⟨w, p, n, e, -, -⟩ := raceWrite_cases s (memGet s.mem (bufAddr s a)) v true
  simp only [requesterWrite, hb, raced, e, if_true]
  exact ⟨(memGet_memPut hm _ _ w).trans (if_pos rfl), rfl, rfl⟩

/-- Settles O54: the choice at a value's place gives it, and a write keeps the value that gave way for both sides' reads. -/
theorem racesGiveEither : Obligations.RacesGiveEither := by
  refine ⟨fun s a q h => ⟨fun v t e => ?_, fun v hv => ?_⟩, fun s a hb => ⟨?_, fun v hv => ?_⟩,
    fun s a v hm hb => ⟨fun hr => requesterWrite_alone hb hr v, fun hr => ⟨fun w => ⟨fun hw => ?_, ?_⟩, ?_⟩⟩,
    fun s a v hm q h => ⟨fun hr => memWrite_quiet q hr h v, fun hr => ⟨fun w => ⟨fun hw => ?_, ?_⟩, ?_⟩⟩⟩
  · obtain ⟨u, e'⟩ := memRead_racePick q h
    obtain ⟨rfl, -⟩ := EStateM.Result.ok.inj (e'.symm.trans e)
    exact racePick_mem _ _ _
  · obtain ⟨p, hp⟩ := racePick_reaches s hv
    obtain ⟨u, e⟩ := memRead_racePick (s := { s with picks := [p] }) q h
    exact ⟨p, u, hp ▸ e⟩
  · exact ⟨_, racePick_mem _ _ _, requesterRead_rdata hb a⟩
  · obtain ⟨p, hp⟩ := racePick_reaches s hv
    exact ⟨p, hp ▸ requesterRead_rdata (s := { s with picks := [p] }) hb a⟩
  · obtain ⟨p, hp⟩ := raceWrite_reaches s hw
    exact ⟨p, (requesterWrite_raced (s := { s with picks := [p] }) hm hb hr v).byte.trans hp⟩
  · rintro ⟨p, rfl⟩
    have k := requesterWrite_raced (s := { s with picks := [p] }) hm hb hr v
    exact (raceWrite_kept _ _ v true).imp k.byte.trans k.byte.trans
  · rintro w t hw rfl
    exact (requesterWrite_raced hm hb hr v).open (raceWrite_kept s _ v true) hw
  · obtain ⟨p, hp⟩ := raceWrite_reaches s hw
    obtain ⟨t, e, k⟩ := memWrite_raced (s := { s with picks := [p] }) hm q h hr v
    exact ⟨p, t, e, k.byte.trans hp⟩
  · rintro ⟨p, t, e, rfl⟩
    obtain ⟨t', e', k⟩ := memWrite_raced (s := { s with picks := [p] }) hm q h hr v
    obtain ⟨-, rfl⟩ := EStateM.Result.ok.inj (e'.symm.trans e)
    exact (raceWrite_kept _ _ v true).imp k.byte.trans k.byte.trans
  · rintro w t hw e
    obtain ⟨t', e', k⟩ := memWrite_raced hm q h hr v
    obtain ⟨-, rfl⟩ := EStateM.Result.ok.inj (e'.symm.trans e)
    exact k.open (raceWrite_kept s _ v true) hw

end Sys2Proof.Machine
end

section
/-! SUPPORT. How many bytes a piece of the sequencer's work exchanges at most, whatever the card answers and whatever arrives (70_reset_and_hazards.md
R261; 41_wait_and_data.md R120). -/
namespace Sys2Proof.Machine

variable {i : Instr} {r s t : State} {α β : Type} {L : List Label} {W : Nat → Prop} {F A : State → Prop}

/-- What changes of the kinds in `L` and of the outside keep, a piece keeps; a reset leaves what `A` says. -/
theorem unchanged_holds (hF : ∀ s t, Unchanged (.outside :: L) s t → F s → F t) (hA : ∀ u i, F u → A { resetBlock u with inbox := i }) :
    Holds L W F A where
  hears s hs := hears_of_outside (fun s t m => hF s t ((m.unchanged (by simp)).mono (by simp))) hA hs
  moves l hl hq s t m := hF s t ((m.unchanged fun e => absurd hq (by rw [e]; decide)).mono (by simp [hl]))
  count s a b := hF s _ (unchanged_count s a b)
  read hm a s t h := hF s t ((h.move.unchanged (by simp)).mono (by simp [hm]))
  write hm a _ s t h := hF s t ((h.move.unchanged (by simp)).mono (by simp [hm]))

/-- What stands of every state of the run `r` started: the parameters, the sector count, and the family (R31, R35). -/
structure Standing (i : Instr) (r t : State) : Prop where
  cfg : t.cfg = r.cfg
  lArg1 : t.lArg1 = r.lArg1
  family : i ≠ .init → t.family = r.family

theorem Standing.refl (i : Instr) (r : State) : Standing i r r := ⟨rfl, rfl, fun _ => rfl⟩

theorem Standing.unchanged (h : Standing i r s) (hf : i ≠ .init → .family ∉ L) (u : Unchanged L s t) : Standing i r t :=
  ⟨u.cfg.trans h.cfg, u.lArg1.trans h.lArg1, fun hi => (u.family (hf hi)).trans (h.family hi)⟩

/-- From `s` at most `n` bytes are exchanged, and the run stands but for a reset. -/
def Within (i : Instr) (r s : State) (n : Nat) : EStateM.Result Stop State α → Prop
  | .ok _ t => Standing i r t ∧ s.xchgs ≤ t.xchgs ∧ t.xchgs ≤ s.xchgs + n
  | .error e t => (e ≠ .abandoned → Standing i r t) ∧ s.xchgs ≤ t.xchgs ∧ t.xchgs ≤ s.xchgs + n

/-- The piece exchanges at most `n` bytes. -/
def Costs (i : Instr) (r : State) (n : Nat) (m : Blk α) : Prop := ∀ s, Standing i r s → Within i r s n (m s)

namespace Costs

variable {m : Blk α} {f : α → Blk β} {n k : Nat}

theorem mono (h : Costs i r n m) (hn : n ≤ k) : Costs i r k m := fun s hs => by
  have w := h s hs
  cases hm : m s with
  | ok a t =>
    rw [hm] at w
    obtain ⟨l, h₁, h₂⟩ := w
    exact ⟨l, h₁, by omega⟩
  | error e t =>
    rw [hm] at w
    obtain ⟨l, h₁, h₂⟩ := w
    exact ⟨l, h₁, by omega⟩

theorem bind (hm : Costs i r n m) (hf : ∀ a, Costs i r k (f a)) : Costs i r (n + k) (m >>= f) := fun s hs => by
  have w := hm s hs
  cases e : m s with
  | error e' t =>
    rw [e] at w
    obtain ⟨l, h₁, h₂⟩ := w
    rw [blk_bind_error e]
    exact ⟨l, h₁, by omega⟩
  | ok a t =>
    rw [e] at w
    obtain ⟨l, h₁, h₂⟩ := w
    rw [blk_bind_ok e]
    have w' := hf a t l
    cases e' : f a t with
    | ok b u =>
      rw [e'] at w'
      obtain ⟨l', h₃, h₄⟩ := w'
      exact ⟨l', by omega, by omega⟩
    | error b u =>
      rw [e'] at w'
      obtain ⟨l', h₃, h₄⟩ := w'
      exact ⟨l', by omega, by omega⟩

theorem ite {c : Prop} [Decidable c] {a b : Blk α} (ha : Costs i r n a) (hb : Costs i r k b) : Costs i r (max n k) (if c then a else b) := by
  split
  · exact ha.mono (Nat.le_max_left n k)
  · exact hb.mono (Nat.le_max_right n k)

/-- A piece that goes on with what it reads. -/
theorem get {g : State → Blk β} (h : ∀ s, Standing i r s → Costs i r n (g s)) : Costs i r n ((MonadState.get : Blk State) >>= g) :=
  fun s hs => h s hs s hs

theorem pure (a : α) : Costs i r 0 (pure a : Blk α) := fun _ hs => ⟨hs, Nat.le_refl _, Nat.le_refl _⟩

theorem raise (c : Cause) : Costs i r 0 (Machine.raise c) := fun _ hs => ⟨fun _ => hs, Nat.le_refl _, Nat.le_refl _⟩

/-- A piece built of changes that are no exchange. -/
theorem of_built (hx : .exchange ∉ L) (hf : i ≠ .init → .family ∉ L) (h : Built (fun _ => True) L (fun _ => True) m) : Costs i r 0 m := by
  intro s hs
  have holds : Holds L (fun _ => True) (fun t => Standing i r t ∧ t.xchgs = s.xchgs) fun t => t.xchgs = s.xchgs :=
    unchanged_holds (fun t u h k => ⟨k.1.unchanged (fun hi => by simp [hf hi]) h, (h.bus (by simp [hx])).2.trans k.2⟩) fun u i k => k.2
  have w := h.leaves holds (fun _ _ => trivial) s ⟨hs, rfl⟩
  cases hm : m s with
  | ok a t =>
    rw [hm] at w
    cases w with
    | ok k => exact ⟨k.1, by omega, by omega⟩
  | error e t =>
    rw [hm] at w
    cases w with
    | raised _ k | stuck _ k => exact ⟨fun _ => k.1, by omega, by omega⟩
    | abandoned k => exact ⟨fun h => absurd rfl h, by omega, by omega⟩

end Costs

end Sys2Proof.Machine
end

section
/-! SUPPORT. The worst case of every primitive and every body (R261). -/
namespace Sys2Proof.Machine

namespace Costs

variable {i : Instr} {r s t : State} {α β : Type} {m : Blk α} {n k : Nat}

/-! ### Pieces that exchange nothing -/

theorem at_ (p : Seq) : Costs i r 0 (Machine.at_ p) := of_built (L := [.seq]) (by simp) (by simp) (at_built (by simp) p)

theorem line (n : Nat) : Costs i r 0 (Machine.line n) := at_ _

theorem part (n k : Nat) : Costs i r 0 (Machine.part n k) := at_ _

theorem initAt (st : InitState) (n k : Nat) : Costs i r 0 (Machine.initAt st n k) := at_ _

theorem sync : Costs i r 0 Machine.sync := of_built (L := []) (by simp) (by simp) .sync

theorem setTries (n : Nat) : Costs i r 0 (Machine.setTries n) := of_built (L := []) (by simp) (by simp) (setTries_built n)

theorem setByteIdx (n : Nat) : Costs i r 0 (Machine.setByteIdx n) := of_built (L := []) (by simp) (by simp) (setByteIdx_built n)

theorem setSector (k : Nat) : Costs i r 0 (Machine.setSector k) := of_built (L := [.counters]) (by simp) (by simp) (setSector_built (by simp) k)

theorem setRes (a : Accum) : Costs i r 0 (Machine.setRes a) := of_built (L := [.counters]) (by simp) (by simp) (setRes_built (by simp) a)

theorem select : Costs i r 0 Machine.select := of_built (L := [.select]) (by simp) (by simp) (select_built (by simp))

theorem memRead (a : Nat) : Costs i r 0 (Machine.memRead a) := of_built (L := [.memRead]) (by simp) (by simp) (.memRead (by simp) a)

theorem memWrite (a : Nat) (v : Byte) : Costs i r 0 (Machine.memWrite a v) :=
  of_built (L := [.memWrite]) (by simp) (by simp) (.memWrite (by simp) a trivial v)

theorem returnRes : Costs i r 0 Machine.returnRes := of_built (L := [.counters]) (by simp) (by simp) (returnRes_built (by simp))

/-- A change of the state that is no event. -/
theorem change {f : State → State} (l : Label) (hx : l ≠ .exchange) (hf : i ≠ .init → l ≠ .family) (hq : l ∈ quietLabels)
    (h : ∀ s, Move l s (f s)) (keeping : Keeping f) : Costs i r 0 (modify f : Blk PUnit) :=
  of_built (L := [l]) (by simpa using hx.symm) (fun hi => by simpa using (hf hi).symm) (.change l (by simp) hq h keeping)

theorem takeR1 (b : Byte) : Costs i r 0 (Machine.takeR1 b) :=
  change .lastR1 (by decide) (by simp) (by decide) (fun _ => ⟨b, rfl⟩) fun _ _ _ _ _ => rfl

theorem takeDresp (b : Byte) : Costs i r 0 (Machine.takeDresp b) :=
  of_built (L := [.dresp]) (by simp) (by simp) (takeDresp_built (by simp) b)

/-! ### Commands and waits -/

theorem xchg (o : Byte) : Costs i r 1 (Machine.xchg o) := by
  have w : Costs i r (0 + 1) (Machine.sync >>= fun _ => act cardAnswer fun s =>
      { s with card := s.card.tail, trace := .xchg o (cardAnswer s) :: s.trace, xchgs := s.xchgs + 1 }) :=
    sync.bind fun _ s hs => ⟨⟨hs.cfg, hs.lArg1, hs.family⟩, Nat.le_succ _, Nat.le_refl _⟩
  exact w.mono (by omega)

theorem receive (b : Byte) : Costs i r 1 (Machine.receive b) := by
  have w : Costs i r (0 + 1) (Machine.sync >>= fun _ => exchanged filler b) :=
    sync.bind fun _ s hs => ⟨⟨hs.cfg, hs.lArg1, hs.family⟩, Nat.le_succ _, Nat.le_refl _⟩
  exact w.mono (by omega)

theorem fillers : ∀ n, Costs i r n (Machine.fillers n)
  | 0 => pure ()
  | n + 1 => ((xchg _).bind fun _ => fillers n).mono (by omega)

theorem sendBytes : ∀ l, Costs i r l.length (Machine.sendBytes l)
  | [] => pure ()
  | b :: bs => ((xchg b).bind fun _ => sendBytes bs).mono (by simp; omega)

theorem pollResponse : ∀ n last, Costs i r n (Machine.pollResponse n last)
  | 0, _ => pure _
  | n + 1, _ => ((xchg _).bind fun b => (setTries n).bind fun _ => (pure b).ite (pollResponse n b)).mono (by omega)

/-- The frame, the stuff byte of CMD12, and the polls (R104). -/
theorem sendCommand (idx : Byte) (arg : Word) (crc : Byte) :
    Costs i r ((if idx = 12#8 then 7 else 6) + r.cfg.cmdRespTries) (Machine.sendCommand idx arg crc) := by
  have stuff : Costs i r (if idx = 12#8 then 1 else 0) (stuffByte idx) := by
    unfold stuffByte
    split
    · exact fillers 1
    · exact pure ()
  refine ((sendBytes _).bind fun _ => stuff.bind fun _ => get (n := r.cfg.cmdRespTries) fun s hs => ?_).mono ?_
  · rw [hs.cfg]
    exact ((setTries _).bind fun _ => (pollResponse _ _).bind fun b => (takeR1 b).bind fun _ => pure b).mono (by omega)
  · rw [frame_length]
    split <;> omega

/-- A command that is not CMD12. -/
theorem command {idx : Byte} (h : idx ≠ 12#8) (arg : Word) (crc : Byte) : Costs i r (6 + r.cfg.cmdRespTries) (Machine.sendCommand idx arg crc) := by
  have w := sendCommand (i := i) (r := r) idx arg crc
  rwa [if_neg h] at w

theorem appCommand {idx : Byte} (h : idx ≠ 12#8) (arg : Word) : Costs i r (2 * (6 + r.cfg.cmdRespTries)) (Machine.appCommand idx arg) :=
  ((command (by decide) _ _).bind fun _ => ((command h _ _).bind fun _ => pure _).ite (pure _)).mono (by omega)

theorem isAccepted {m : Blk Byte} (h : Costs i r n m) : Costs i r n (Machine.isAccepted m) := (h.bind fun _ => pure _).mono (by omega)

theorem waitUntil (p : Byte → Bool) : ∀ n last, Costs i r n (Machine.waitUntil p n last)
  | 0, _ => pure _
  | n + 1, _ => ((xchg _).bind fun b => (setTries n).bind fun _ => (pure _).ite (waitUntil p n b)).mono (by omega)

theorem waitFor (p : Byte → Bool) (n : Nat) : Costs i r n (Machine.waitFor p n) := ((setTries n).bind fun _ => waitUntil p n _).mono (by omega)

theorem waitIdle : Costs i r r.cfg.idleWaitTries Machine.waitIdle := get fun s hs => by
  rw [hs.cfg]
  exact (waitFor _ _).bind fun _ => pure _

theorem waitToken : Costs i r r.cfg.tokenWaitTries Machine.waitToken := get fun s hs => by
  rw [hs.cfg]
  exact (waitFor _ _).bind fun _ => pure _

theorem waitWriteBusy : Costs i r r.cfg.writeBusyTries Machine.waitWriteBusy := get fun s hs => by
  rw [hs.cfg]
  exact (waitFor _ _).bind fun _ => pure _

theorem waitEraseBusy : Costs i r r.cfg.eraseBusyTries Machine.waitEraseBusy := get fun s hs => by
  rw [hs.cfg]
  exact (waitFor _ _).bind fun _ => pure _

/-! ### Data blocks -/

theorem receivePayload (dest : Nat) : ∀ n j, Costs i r n (Machine.receivePayload dest j n)
  | 0, _ => pure ()
  | n + 1, j => ((setByteIdx j).bind fun _ => (xchg _).bind fun b => (memWrite _ b).bind fun _ => receivePayload dest n (j + 1)).mono (by omega)

/-- The token and the block (R125). -/
theorem dataReceive (len dest : Nat) : Costs i r (r.cfg.tokenWaitTries + (len + 2)) (Machine.dataReceive len dest) :=
  (waitToken.bind fun _ => ((receivePayload dest len 0).bind fun _ => (fillers 2).bind fun _ => pure _).ite (pure _)).mono (by omega)

theorem receiveRegister (len off : Nat) : Costs i r (r.cfg.tokenWaitTries + (len + 2)) (Machine.receiveRegister len off) :=
  get fun _ _ => dataReceive len _

theorem receiveSector (k : Nat) : Costs i r (r.cfg.tokenWaitTries + 514) (Machine.receiveSector k) := receiveRegister 512 _

theorem receiveCsd (dest : Nat) : ∀ n j, Costs i r n (Machine.receiveCsd dest j n)
  | 0, _ => line 7
  | n + 1, j => ((line 7).bind fun _ => (setByteIdx j).bind fun _ => (line 8).bind fun _ => (xchg _).bind fun b => (line 9).bind fun _ =>
      (memWrite _ b).bind fun _ => (line 10).bind fun _ => (change .csd (by decide) (by simp) (by decide) (fun s => ⟨_, rfl⟩)
        fun _ _ _ _ _ => rfl).bind fun _ => receiveCsd dest n (j + 1)).mono (by omega)

theorem require (n : Nat) (c : Cause) {m : Blk Bool} {k : Nat} (h : Costs i r k m) : Costs i r k (Machine.require n c m) :=
  ((line n).bind fun _ => h.bind fun _ => (pure _).ite ((part n 2).bind fun _ => raise c)).mono (by omega)

theorem csdReceive : Costs i r (r.cfg.tokenWaitTries + 18) Machine.csdReceive :=
  ((line 5).bind fun _ => waitToken.bind fun _ => (require 6 _ (pure _)).bind fun _ => (get fun _ _ => pure _).bind fun dest =>
    (receiveCsd dest 16 0).bind fun _ => (line 11).bind fun _ => (fillers 1).bind fun _ => (part 11 2).bind fun _ => fillers 1).mono (by omega)

theorem sendPayload (src : Nat) : ∀ n j, Costs i r n (Machine.sendPayload src j n)
  | 0, _ => pure ()
  | n + 1, j => ((setByteIdx j).bind fun _ => (memRead _).bind fun b => (xchg b).bind fun _ => sendPayload src n (j + 1)).mono (by omega)

/-- The token, the block and the data response (R127). -/
theorem sendSector (token : Byte) (k : Nat) : Costs i r 516 (Machine.sendSector token k) := get fun _ _ =>
  ((xchg token).bind fun _ => (sendPayload _ 512 0).bind fun _ => (fillers 2).bind fun _ => (xchg _).bind fun d => takeDresp d).mono (by omega)

theorem writeGap : Costs i r r.cfg.writeGapBytes Machine.writeGap := get fun s hs => by
  rw [hs.cfg]
  exact fillers _

end Costs
end Sys2Proof.Machine
end

section
/-! SUPPORT. The worst case of every operation's body, and of every request (70_reset_and_hazards.md R261). -/
namespace Sys2Proof.Machine

namespace Costs

variable {i : Instr} {r s t : State} {α β : Type} {m : Blk α} {n k : Nat}

/-! ### The transfers -/

theorem firstAddress : Costs i r 0 Machine.firstAddress := get fun _ _ => pure _

theorem lastAddress : Costs i r 0 Machine.lastAddress := get fun _ _ => pure _

/-- A piece that goes on with the sector count. -/
theorem sectorCount {f : Word → Blk β} (h : Costs i r n (f r.lArg1)) : Costs i r n (Machine.sectorCount >>= f) := fun s hs => by
  have e : Machine.sectorCount s = .ok r.lArg1 s := congrArg (EStateM.Result.ok · s) hs.lArg1
  rw [blk_bind_ok e]
  exact h s hs

theorem ready (n : Nat) : Costs i r r.cfg.idleWaitTries (Machine.require n .readyTimeout Machine.waitIdle) := require n _ waitIdle

theorem commandLine (n : Nat) {idx : Byte} (h : idx ≠ 12#8) (arg : Word) :
    Costs i r (6 + r.cfg.cmdRespTries) (Machine.require n .cmdRejected (Machine.isAccepted (Machine.sendCommand idx arg 0x00#8))) :=
  require n _ (isAccepted (command h arg _))

theorem bodyRd1 : Costs i r (r.cfg.idleWaitTries + (6 + r.cfg.cmdRespTries) + (r.cfg.tokenWaitTries + 514)) Machine.bodyRd1 :=
  ((line 1).bind fun _ => firstAddress.bind fun _ => (line 2).bind fun _ => select.bind fun _ => (ready 3).bind fun _ => (line 4).bind fun _ =>
    (command (by decide) _ _).bind fun _ => (require 5 _ (pure _)).bind fun _ => (require 6 _ (receiveSector 0)).bind fun _ => line 7).mono (by omega)

theorem bodyWr1 : Costs i r (r.cfg.idleWaitTries + (6 + r.cfg.cmdRespTries) + r.cfg.writeGapBytes + 516 + r.cfg.writeBusyTries) Machine.bodyWr1 :=
  ((line 1).bind fun _ => firstAddress.bind fun _ => (line 2).bind fun _ => select.bind fun _ => (ready 3).bind fun _ => (line 4).bind fun _ =>
    (command (by decide) _ _).bind fun _ => (require 5 _ (pure _)).bind fun _ => (line 6).bind fun _ => writeGap.bind fun _ =>
    (require 7 _ (sendSector _ 0)).bind fun _ => (require 8 _ waitWriteBusy).bind fun _ => line 9).mono (by omega)

theorem bodyErase : Costs i r (r.cfg.idleWaitTries + 3 * (6 + r.cfg.cmdRespTries) + r.cfg.eraseBusyTries) Machine.bodyErase :=
  ((line 1).bind fun _ => firstAddress.bind fun _ => (part 1 2).bind fun _ => lastAddress.bind fun _ => (line 2).bind fun _ => select.bind fun _ =>
    (ready 3).bind fun _ => (commandLine 4 (by decide) _).bind fun _ => (commandLine 5 (by decide) _).bind fun _ =>
    (commandLine 6 (by decide) _).bind fun _ => (require 7 _ waitEraseBusy).bind fun _ => line 8).mono (by omega)

theorem bodyStat : Costs i r (r.cfg.idleWaitTries + 2 * (6 + r.cfg.cmdRespTries) + 1 + (r.cfg.tokenWaitTries + 66)) Machine.bodyStat :=
  ((line 1).bind fun _ => select.bind fun _ => (ready 2).bind fun _ => (require 3 _ (appCommand (by decide) _)).bind fun _ => (line 4).bind fun _ =>
    (fillers 1).bind fun _ => (require 5 _ (receiveRegister 64 0)).bind fun _ => line 6).mono (by omega)

theorem rdnLoop : ∀ n k, Costs i r (n * (r.cfg.tokenWaitTries + 514)) (Machine.rdnLoop k n)
  | 0, _ => (line 7).mono (by omega)
  | n + 1, k => ((line 7).bind fun _ => (setSector k).bind fun _ => (line 8).bind fun _ => (receiveSector k).bind fun _ =>
      (rdnLoop n (k + 1)).ite ((line 9).bind fun _ => (setRes _).bind fun _ => line 10)).mono (by rw [Nat.succ_mul]; omega)

theorem checkStop (b : Byte) : Costs i r 0 (Machine.checkStop b) :=
  (line 12).bind fun _ => get fun _ _ => ((part 12 2).bind fun _ => setRes _).ite (pure _)

theorem bodyRdn : Costs i r (r.cfg.idleWaitTries + (6 + r.cfg.cmdRespTries) + r.lArg1.toNat * (r.cfg.tokenWaitTries + 514) +
    (7 + r.cfg.cmdRespTries)) Machine.bodyRdn :=
  ((line 1).bind fun _ => firstAddress.bind fun _ => (part 1 2).bind fun _ => sectorCount <| (line 2).bind fun _ => select.bind fun _ =>
    (ready 3).bind fun _ => (line 4).bind fun _ => (command (by decide) _ _).bind fun _ => (require 5 _ (pure _)).bind fun _ =>
    (line 6).bind fun _ => (setRes _).bind fun _ => (rdnLoop _ 0).bind fun _ => (line 11).bind fun _ => (sendCommand 12#8 _ _).bind fun b =>
    (checkStop b).bind fun _ => (line 13).bind fun _ => returnRes).mono (by rw [if_pos rfl]; omega)

theorem announceCount (n : Word) :
    Costs i r ((if r.cfg.setBlkCntAppPrefix = false then 1 else 2) * (6 + r.cfg.cmdRespTries)) (Machine.announceCount n) := by
  refine ((line 5).bind fun _ => get fun s hs => ?_).mono (Nat.le_of_eq (Nat.zero_add _))
  rw [hs.cfg]
  cases r.cfg.setBlkCntAppPrefix with
  | true => exact ((part 5 2).bind fun _ => appCommand (by decide) n).mono (by simp)
  | false => exact ((line 6).bind fun _ => isAccepted (command (by decide) n _)).mono (by simp)

/-- No command on an MMC (R175). -/
theorem announceUnlessMmc (hi : i ≠ .init) (n : Word) :
    Costs i r ((if r.family = .mmc ∨ r.cfg.setBlkCntAppPrefix = false then 1 else 2) * (6 + r.cfg.cmdRespTries)) (Machine.announceUnlessMmc n) := by
  refine ((line 4).bind fun _ => get fun s hs => ?_).mono (Nat.le_of_eq (Nat.zero_add _))
  rw [hs.family hi]
  by_cases h : r.family = .mmc
  · rw [if_pos h]
    exact (pure _).mono (Nat.zero_le _)
  · simp only [h, false_or, if_false]
    exact (announceCount n).bind fun _ => require 7 _ (pure _)

theorem wrnLoop : ∀ n k, Costs i r (n * (516 + r.cfg.writeBusyTries)) (Machine.wrnLoop k n)
  | 0, _ => (line 12).mono (by omega)
  | n + 1, k => ((line 12).bind fun _ => (setSector k).bind fun _ => (line 13).bind fun _ => (sendSector _ k).bind fun _ =>
      ((line 15).bind fun _ => waitWriteBusy.bind fun _ => (wrnLoop n (k + 1)).ite ((line 16).bind fun _ => (setRes _).bind fun _ => part 16 2)).ite
        ((line 14).bind fun _ => (setRes _).bind fun _ => part 14 2)).mono (by rw [Nat.succ_mul]; omega)

theorem closeWait : Costs i r r.cfg.idleWaitTries Machine.closeWait :=
  ((line 19).bind fun _ => waitIdle.bind fun _ => (pure _).ite ((line 20).bind fun _ => get fun _ _ =>
    ((part 20 2).bind fun _ => setRes _).ite (pure _))).mono (by omega)

theorem bodyWrn (hi : i ≠ .init) : Costs i r (r.cfg.idleWaitTries +
    (if r.family = .mmc ∨ r.cfg.setBlkCntAppPrefix = false then 2 else 3) * (6 + r.cfg.cmdRespTries) + r.cfg.writeGapBytes +
    r.lArg1.toNat * (516 + r.cfg.writeBusyTries) + 2 + r.cfg.idleWaitTries) Machine.bodyWrn :=
  ((line 1).bind fun _ => firstAddress.bind fun _ => (part 1 2).bind fun _ => sectorCount <| (line 2).bind fun _ => select.bind fun _ =>
    (ready 3).bind fun _ => (announceUnlessMmc hi _).bind fun _ => (line 8).bind fun _ => (command (by decide) _ _).bind fun _ =>
    (require 9 _ (pure _)).bind fun _ => (line 10).bind fun _ => writeGap.bind fun _ => (line 11).bind fun _ => (setRes _).bind fun _ =>
    (wrnLoop _ 0).bind fun _ => (line 17).bind fun _ => (xchg _).bind fun _ => (line 18).bind fun _ => (fillers 1).bind fun _ =>
    closeWait.bind fun _ => (line 21).bind fun _ => returnRes).mono (by split <;> omega)

theorem scrUnlessMmc (hi : i ≠ .init) : Costs i r (if r.family = .mmc then 0 else
    r.cfg.idleWaitTries + 2 * (6 + r.cfg.cmdRespTries) + (r.cfg.tokenWaitTries + 10)) Machine.scrUnlessMmc := by
  refine ((line 17).bind fun _ => get fun s hs => ?_).mono (Nat.le_of_eq (Nat.zero_add _))
  rw [hs.family hi]
  split
  · exact pure _
  · exact ((ready 18).bind fun _ => (require 19 _ (appCommand (by decide) _)).bind fun _ => require 20 _ (receiveRegister 8 32)).mono (by omega)

theorem bodyInfo (hi : i ≠ .init) : Costs i r (if r.family = .mmc
    then 2 * r.cfg.idleWaitTries + 2 * (6 + r.cfg.cmdRespTries) + 2 * r.cfg.tokenWaitTries + 36
    else 3 * r.cfg.idleWaitTries + 4 * (6 + r.cfg.cmdRespTries) + 3 * r.cfg.tokenWaitTries + 46) Machine.bodyInfo :=
  ((line 1).bind fun _ => select.bind fun _ => (ready 3).bind fun _ => (commandLine 4 (by decide) _).bind fun _ => csdReceive.bind fun _ =>
    (ready 13).bind fun _ => (commandLine 14 (by decide) _).bind fun _ => (require 15 _ (receiveRegister 16 16)).bind fun _ =>
    (scrUnlessMmc hi).bind fun _ => (line 22).bind fun _ =>
    (change .capkb (by decide) (by simp) (by decide) (fun _ => rfl) fun _ _ _ _ _ => rfl).bind fun _ => (line 23).bind fun _ =>
    (change .blksize (by decide) (by simp) (by decide) (fun _ => rfl) fun _ _ _ _ _ => rfl).bind fun _ => line 24).mono (by split <;> omega)

end Costs
end Sys2Proof.Machine
end

section
/-! SUPPORT. The worst case of INIT, and of every request and wire row (70_reset_and_hazards.md R261). -/
namespace Sys2Proof.Machine

namespace Costs

variable {i : Instr} {r s t : State} {α β : Type} {m : Blk α} {n k : Nat}

/-! ### INIT -/

theorem lastTry (st : InitState) (l n : Nat) (c : Cause) : Costs i r 0 (Machine.lastTry st l n c) :=
  (initAt st l 1).bind fun _ => (setTries n).bind fun _ => (initAt st (l + 1) 1).bind fun _ =>
    ((initAt st (l + 1) 2).bind fun _ => raise c).ite (pure _)

theorem setFamily (f : Family) : Costs .init r 0 (Machine.setFamily f) :=
  change .family (by decide) (fun h => absurd rfl h) (by decide) (fun _ => ⟨f, rfl⟩) fun _ _ _ _ _ => rfl

theorem setInitOk (b : Bool) : Costs i r 0 (Machine.setInitOk b) :=
  change .initOk (by decide) (by simp) (by decide) (fun _ => ⟨b, rfl⟩) fun _ _ _ _ _ => rfl

theorem moveSeq (p : Seq) : Costs i r 0 (Machine.moveSeq p) :=
  change .seq (by decide) (by simp) (by decide) (fun _ => ⟨p, rfl⟩) fun _ _ _ _ _ => rfl

/-- The four bytes of an extended response (R105). -/
theorem getExtendedResponse : Costs i r 4 Machine.getExtendedResponse := by
  have ext : ∀ j, Costs i r 1 (receiveExt j) := fun j => (xchg _).bind fun b =>
    change .ext (by decide) (by simp) (by decide) (fun s => ⟨s.ext.set j b, s.ext32, rfl⟩) fun _ _ _ _ _ => rfl
  exact ((ext 0).bind fun _ => (ext 1).bind fun _ => (ext 2).bind fun _ => (ext 3).bind fun _ => get fun s _ =>
    (change .ext (by decide) (by simp) (by decide) (fun t => ⟨t.ext, extValue s.ext, rfl⟩) fun _ _ _ _ _ => rfl).bind fun _ => pure _).mono (by omega)

theorem spiIdleLoop : ∀ n, Costs i r (n * (6 + r.cfg.cmdRespTries)) (Machine.spiIdleLoop n)
  | 0 => (raise _).mono (by omega)
  | n + 1 => ((initAt _ 7 1).bind fun _ => (initAt _ 8 1).bind fun _ => (command (by decide) _ _).bind fun _ => (initAt _ 9 1).bind fun _ =>
      (initAt _ 9 2).ite ((lastTry _ 10 n _).bind fun _ => spiIdleLoop n)).mono (by rw [Nat.succ_mul]; omega)

theorem voltageCheckLoop : ∀ n, Costs .init r (n * (10 + r.cfg.cmdRespTries)) (Machine.voltageCheckLoop n)
  | 0 => (raise _).mono (by omega)
  | n + 1 => ((initAt _ 14 1).bind fun _ => (initAt _ 15 1).bind fun _ => (command (by decide) _ _).bind fun _ => (initAt _ 16 1).bind fun _ =>
      ((initAt _ 17 1).bind fun _ => (setFamily _).bind fun _ => initAt _ 18 1).ite ((initAt _ 19 1).bind fun _ => getExtendedResponse.bind fun _ =>
        (initAt _ 20 1).bind fun _ => ((initAt _ 21 1).bind fun _ => (setFamily _).bind fun _ => initAt _ 22 1).ite
          ((lastTry _ 23 n _).bind fun _ => voltageCheckLoop n))).mono (by rw [Nat.succ_mul]; omega)

theorem activateLoop (hcs : Word) : ∀ n, Costs .init r (2 * n * (6 + r.cfg.cmdRespTries)) (Machine.activateLoop hcs n)
  | 0 => (raise _).mono (by omega)
  | n + 1 => ((initAt _ 28 1).bind fun _ => (initAt _ 29 1).bind fun _ => (command (by decide) _ _).bind fun _ => (initAt _ 30 1).bind fun _ =>
      ((initAt _ 31 1).bind fun _ => (setFamily _).bind fun _ => initAt _ 32 1).ite ((initAt _ 33 1).bind fun _ =>
        (command (by decide) _ _).bind fun _ => (initAt _ 34 1).bind fun _ => ((lastTry _ 35 n _).bind fun _ => activateLoop hcs n).ite
          (initAt _ 34 2))).mono (by rw [Nat.mul_succ, Nat.add_mul]; omega)

theorem mmcActivateLoop : ∀ n, Costs i r (n * (6 + r.cfg.cmdRespTries)) (Machine.mmcActivateLoop n)
  | 0 => (raise _).mono (by omega)
  | n + 1 => ((initAt _ 40 1).bind fun _ => (initAt _ 41 1).bind fun _ => (command (by decide) _ _).bind fun _ => (initAt _ 42 1).bind fun _ =>
      ((lastTry _ 43 n _).bind fun _ => mmcActivateLoop n).ite (initAt _ 42 2)).mono (by rw [Nat.succ_mul]; omega)

theorem rampUp : Costs .init r r.cfg.rampUpBytes Machine.rampUp :=
  ((initAt _ 1 1).bind fun _ => ((setFamily _).bind fun _ => (moveSeq _).bind fun _ => setInitOk _).bind fun _ => (initAt _ 3 1).bind fun _ =>
    get fun s hs => by rw [hs.cfg]; exact fillers _).mono (by omega)

theorem spiIdle : Costs i r (r.cfg.goIdleTries * (6 + r.cfg.cmdRespTries)) Machine.spiIdle :=
  ((initAt _ 5 1).bind fun _ => select.bind fun _ => (initAt _ 6 1).bind fun _ => get fun s hs => by
    rw [hs.cfg]
    exact (setTries _).bind fun _ => spiIdleLoop _).mono (by omega)

theorem voltageCheck : Costs .init r (r.cfg.vcheckTries * (10 + r.cfg.cmdRespTries)) Machine.voltageCheck :=
  ((initAt _ 13 1).bind fun _ => get fun s hs => by
    rw [hs.cfg]
    exact (setTries _).bind fun _ => voltageCheckLoop _).mono (by omega)

theorem activate : Costs .init r (2 * r.cfg.activateTries * (6 + r.cfg.cmdRespTries)) Machine.activate :=
  ((initAt _ 26 1).bind fun _ => get fun _ _ => (initAt _ 27 1).bind fun _ => get fun s hs => by
    rw [hs.cfg]
    exact (setTries _).bind fun _ => activateLoop _ _).mono (by omega)

theorem askCapacity : Costs .init r (10 + r.cfg.cmdRespTries) Machine.askCapacity :=
  ((initAt _ 46 1).bind fun _ => (command (by decide) _ _).bind fun _ => (initAt _ 47 1).bind fun _ => getExtendedResponse.bind fun _ =>
    (initAt _ 48 1).bind fun _ => ((initAt _ 48 2).bind fun _ => setFamily _).ite (pure _)).mono (by omega)

/-- The two ways to resolve the family exclude each other (R142). -/
theorem resolveFamily : Costs .init r (max (r.cfg.activateTries * (6 + r.cfg.cmdRespTries)) (10 + r.cfg.cmdRespTries)) Machine.resolveFamily :=
  ((initAt _ 38 1).bind fun _ => get fun _ _ => ((initAt _ 39 1).bind fun _ => get (n := r.cfg.activateTries * (6 + r.cfg.cmdRespTries)) fun s hs => by
    rw [hs.cfg]
    exact ((setTries _).bind fun _ => mmcActivateLoop _).mono (by omega)).ite ((initAt _ 45 1).bind fun _ => get fun _ _ =>
      askCapacity.ite (pure _))).mono (by omega)

theorem fixBlockLen : Costs i r (6 + r.cfg.cmdRespTries) Machine.fixBlockLen :=
  ((initAt _ 51 1).bind fun _ => get fun _ _ => (pure _).ite ((initAt _ 52 1).bind fun _ => (command (by decide) _ _).bind fun _ =>
    (initAt _ 53 1).bind fun _ => (pure _).ite ((initAt _ 53 2).bind fun _ => raise _))).mono (by omega)

theorem bodyInit : Costs .init r (r.cfg.rampUpBytes + r.cfg.goIdleTries * (6 + r.cfg.cmdRespTries) + r.cfg.vcheckTries * (10 + r.cfg.cmdRespTries) +
    2 * r.cfg.activateTries * (6 + r.cfg.cmdRespTries) + max (r.cfg.activateTries * (6 + r.cfg.cmdRespTries)) (10 + r.cfg.cmdRespTries) +
    (6 + r.cfg.cmdRespTries)) Machine.bodyInit :=
  (rampUp.bind fun _ => spiIdle.bind fun _ => voltageCheck.bind fun _ => activate.bind fun _ => resolveFamily.bind fun _ => fixBlockLen.bind fun _ =>
    (initAt _ 55 1).bind fun _ => (setInitOk _).bind fun _ => initAt _ 56 1).mono (by omega)

/-! ### A request -/

/-- Release exchanges the trailing byte (R101). -/
theorem epilogue : Costs i r 1 Machine.epilogue := by
  have deselect : Costs i r 0 Machine.deselect := of_built (L := [.deselect]) (by simp) (by simp) (.event .deselect (by simp) (by decide)
    ⟨fun _ => rfl, fun _ _ _ _ _ => rfl, fun _ _ _ _ _ => rfl⟩ fun _ => rfl)
  have release : Costs i r 1 Machine.release := by
    rw [release_eq]
    exact (deselect.bind fun _ => (xchg _).bind fun _ => pure _).mono (by omega)
  exact ((at_ _).bind fun _ => get fun _ _ => ((at_ _).bind fun _ => release.bind fun _ => at_ _).ite (at_ _)).mono (by omega)

end Costs

variable {i : Instr} {r s t : State} {body : Blk Unit} {n : Nat} {op : BitVec 4}

/-- From `s` to `t` at most `n` bytes are exchanged. -/
def Bounded (s t : State) (n : Nat) : Prop := s.xchgs ≤ t.xchgs ∧ t.xchgs ≤ s.xchgs + n

theorem Bounded.of_eq (h : t.xchgs = s.xchgs) (n : Nat) : Bounded s t n := ⟨Nat.le_of_eq h.symm, by omega⟩

theorem finishRun_within (h : Standing i r s) (o : Result) : Bounded s (finishRun o s) 1 := by
  have w := Costs.epilogue s h
  unfold finishRun
  cases e : epilogue s with
  | ok _ t => rw [e] at w; exact w.2
  | error _ t => rw [e] at w; exact w.2

/-- A run exchanges what its body does, and the trailing byte. -/
theorem run_bounded (h : Costs i r n body) : Bounded r (run body r) (n + 1) := by
  have w := h r (.refl i r)
  have finish : ∀ {t}, Standing i r t → r.xchgs ≤ t.xchgs → t.xchgs ≤ r.xchgs + n →
      ∀ o, Bounded r (finishRun o t) (n + 1) := fun hs h₁ h₂ o => by
    obtain ⟨h₃, h₄⟩ := finishRun_within hs o
    exact ⟨by omega, by omega⟩
  cases e : body r with
  | ok _ t =>
    rw [e] at w
    obtain ⟨hs, h₁, h₂⟩ := w
    rw [run_ok e]
    exact finish hs h₁ h₂ .ok
  | error stop t =>
    rw [e] at w
    obtain ⟨hs, h₁, h₂⟩ := w
    cases stop with
    | raised c => rw [run_raised e]; exact finish (hs (by simp)) h₁ h₂ _
    | stuck => rw [run_stuck e]; exact ⟨h₁, by omega⟩
    | abandoned => rw [run_abandoned e]; exact ⟨h₁, by omega⟩

theorem started_bounded {op : BitVec 4} (h : Costs i (started op s) n body) : Bounded s (run body (started op s)) (n + 1) := run_bounded h

/-- A wire row exchanges what its piece does. -/
theorem alone_bounded {α : Type} {m : Blk α} (h : Costs i s n m) : Bounded s (alone m s) n := by
  have w := h s (.refl i s)
  unfold alone
  cases e : m s with
  | ok _ t => rw [e] at w; exact w.2
  | error _ t => rw [e] at w; exact w.2

/-- A request exchanges nothing if it is ignored or a pre-check ends it, and else what its run does. -/
theorem start_bounded (h : preCheck op s = none → Bounded s (run body (started op s)) n) :
    Bounded s (start op body s) (if s.busy = true ∨ preCheck op s ≠ none then 0 else n) := by
  cases hb : s.busy with
  | true => rw [start_busy hb]; exact .of_eq rfl _
  | false =>
    cases hc : preCheck op s with
    | some c => rw [start_refused hb body hc]; exact .of_eq rfl _
    | none =>
      rw [start_runs hb body hc, if_neg (by simp)]
      exact h hc

/-- DETECT and DEINIT exchange nothing: they do not select the card, so there is no trailing byte (R140, R143). -/
theorem exec_unselected (h : i.opCode? = some op) (hi : i = .detect ∨ i = .deinit) (hs : s.busy = false → s.cs = false) (ht : exec i s = .next t) :
    t.xchgs = s.xchgs := by
  have hL : .exchange ∉ labelsOf i ∧ .select ∉ labelsOf i ∧ .deselect ∉ labelsOf i := by rcases hi with rfl | rfl <;> decide
  obtain ⟨hx, hsel, hdes⟩ := hL
  have holds : Holds (labelsOf i) (StoredBy i s) (fun t => t.xchgs = s.xchgs ∧ t.cs = false) fun t => t.xchgs = s.xchgs :=
    unchanged_holds (fun t u h k => ⟨(h.bus (by simp [hx])).2.trans k.1, (h.cs (by simp [hsel]) (by simp [hdes])).trans k.2⟩) fun u i k => k.1
  have hseq : .seq ∈ labelsOf i := by rcases hi with rfl | rfl <;> decide
  obtain ⟨u, hu, e⟩ := exec_ended h holds (holds.finishes_unselected hseq fun _ k => k.2) fun hb _ => ⟨rfl, hs hb⟩
  obtain rfl : u = t := Host.Outcome.next.inj (hu.symm.trans ht)
  cases e with
  | ignored _ | refused _ _ _ => rfl
  | ran _ _ k =>
    cases k with
    | ok k _ | failed _ k _ | stuck _ k => exact k.1
    | abandoned k => exact k

/-- Every request but DETECT and DEINIT starts a body whose run exchanges at most what its row of R261 says, or that does not run. -/
theorem exec_runBounded (h : i.opCode? = some op) (hi : ¬(i = .detect ∨ i = .deinit)) (s : State) : ∃ body, exec i s = .next (start op body s) ∧
    (preCheck op s = none → Bounded s (run body (started op s)) (worstBody s i)) := by
  have reserved : ∀ {op : BitVec 4}, op.toNat = 0 ∨ 0xA < op.toNat → ∀ {P : Prop}, preCheck op s = none → P :=
    fun ho _ hc => by simp [preCheck_reserved ho s] at hc
  cases i <;> simp only [Instr.opCode?, reduceCtorEq, Option.some.injEq] at h <;> subst h
  case detect | deinit => simp at hi
  case init => exact ⟨_, rfl, fun _ => started_bounded Costs.bodyInit⟩
  case rd1 => exact ⟨_, rfl, fun _ => started_bounded (i := .rd1) Costs.bodyRd1⟩
  case rdn => exact ⟨_, rfl, fun _ => started_bounded (i := .rdn) Costs.bodyRdn⟩
  case wr1 => exact ⟨_, rfl, fun _ => started_bounded (i := .wr1) Costs.bodyWr1⟩
  case wrn => exact ⟨_, rfl, fun _ => started_bounded (Costs.bodyWrn (i := .wrn) (by decide))⟩
  case erase => exact ⟨_, rfl, fun _ => started_bounded (i := .erase) Costs.bodyErase⟩
  case info =>
    have w := started_bounded (s := s) (op := 0x9#4) (Costs.bodyInfo (i := .info) (by decide))
    rw [apply_ite (· + 1)] at w
    exact ⟨_, rfl, fun _ => w⟩
  case stat => exact ⟨_, rfl, fun _ => started_bounded (i := .stat) Costs.bodyStat⟩
  all_goals exact ⟨_, rfl, reserved (by decide)⟩

/-- A request exchanges at most what its row of R261 says. -/
theorem exec_bounded (h : i.opCode? = some op) (hs : s.busy = false → s.cs = false) (ht : exec i s = .next t) :
    Bounded s t (if s.busy = true ∨ preCheck op s ≠ none then 0 else worstBody s i) := by
  by_cases hi : i = .detect ∨ i = .deinit
  · exact .of_eq (exec_unselected h hi hs ht) _
  · obtain ⟨body, he, hb⟩ := exec_runBounded h hi s
    obtain rfl : start op body s = t := Host.Outcome.next.inj (he.symm.trans ht)
    exact start_bounded hb

/-- A wire row likewise. -/
theorem exec_wireBounded (h : i.opCode? = none) (ht : exec i s = .next t) : Bounded s t (worstBody s i) := by
  have bounded : ∀ {α : Type} {m : Blk α}, Costs .rd1 s (worstBody s i) m → exec i s = .next (alone m s) →
      Bounded s t (worstBody s i) := fun w e => by
    obtain rfl := Host.Outcome.next.inj (e.symm.trans ht)
    exact alone_bounded w
  cases i <;> simp only [Instr.opCode?, reduceCtorEq] at h
  case cmd12 => exact bounded (Costs.sendCommand 12#8 _ _) rfl
  case r1 => exact bounded ((Costs.receive _).bind fun _ => Costs.takeR1 _) rfl
  case tokenStartBlock | tokenMultiWrite | tokenStopTran => exact bounded (Costs.xchg _) rfl
  case drespAccepted | drespCrcRejected | drespWriteError => exact bounded ((Costs.receive _).bind fun _ => Costs.takeDresp _) rfl
  all_goals exact bounded (Costs.command (by decide) _ _) rfl

/-- Settles O60: each body and each wire row is bounded piece by piece, and Release adds the trailing byte. -/
theorem exchangesBounded : Obligations.ExchangesBounded := by
  intro i s t hs ht
  unfold worstExchanges
  cases h : i.opCode? with
  | some op => exact exec_bounded h hs ht
  | none => exact exec_wireBounded h ht

end Sys2Proof.Machine
end

section
/-! SUPPORT. Decoding and encoding agree (30_encoding.md R70 to R82): the decoder reads each format's fields where the encoder puts them,
and what it reads back is what it was given. -/
namespace Sys2Proof.Machine

/-! ### Command frames, R73 -/

/-- The argument's bytes, most significant first, make the argument again (R56, R73). -/
theorem wordOfBytes_argBytes (a : Word) :
    wordOfBytes (a.extractLsb' 24 8) (a.extractLsb' 16 8) (a.extractLsb' 8 8) (a.extractLsb' 0 8) = a := by
  unfold wordOfBytes
  ext j hj
  simp only [BitVec.getElem_append, BitVec.getElem_extractLsb']
  split_ifs <;> rw [← BitVec.getLsbD_eq_getElem hj] <;> congr 1 <;> omega

/-- A word made of four bytes has these bytes (R56, R73). -/
theorem argBytes_wordOfBytes (b0 b1 b2 b3 : Byte) : argBytes (wordOfBytes b0 b1 b2 b3) = [b0, b1, b2, b3] := by
  have bytes : ∀ n, (wordOfBytes b0 b1 b2 b3).extractLsb' n 8 = (b0 ++ b1 ++ b2 ++ b3 : BitVec (8 + 8 + 8 + 8)).extractLsb' n 8 := fun _ => rfl
  simp only [argBytes, bytes, BitVec.extractLsb'_append_eq_ite]
  simp

/-- Bits 7:1 of a frame's last byte are the CRC field (R73). -/
theorem crcField_crcOperand : ∀ c : BitVec 7, (crcOperand c ||| 0x01#8).extractLsb' 1 7 = c := by decide

theorem crcOperand_crcField : ∀ b : Byte, b.getLsbD 0 = true → crcOperand (b.extractLsb' 1 7) ||| 0x01#8 = b := by decide

/-- The decoder finds a command by byte 0 of its frame, and its operands where the frame has them (R73, R75). -/
theorem decode_encodeCommand (n : Nat) (arg : Word) (crc7 : BitVec 7) :
    decode (encodeCommand n arg crc7) = commandOf (0x40#8 ||| (BitVec.ofNat 8 n &&& 0x3F#8)) arg crc7 := by
  show commandOf _ (wordOfBytes _ _ _ _) (BitVec.extractLsb' 1 7 (crcOperand crc7 ||| 0x01#8)) = _
  rw [wordOfBytes_argBytes, crcField_crcOperand]

theorem eq_ofNat_of_toNat {b : Byte} {n : Nat} (h : b.toNat = n) : b = BitVec.ofNat 8 n := by simp [← h]

/-- A command that byte 0 gives is encoded with that byte 0 (R75). -/
theorem encode_commandOf {b : Byte} {arg : Word} {crc7 : BitVec 7} {i : Instr} (h : commandOf b arg crc7 = .ok i) :
    encode i = .wire .command (b :: (argBytes arg ++ [crcOperand crc7 ||| 0x01#8])) := by
  unfold commandOf at h
  split at h
  case h_21 => cases h
  all_goals
    rename_i hb
    cases h
    rw [eq_ofNat_of_toNat hb]
    rfl

/-! ### Bytes from the card, and tokens, R77, R81, R82 -/

theorem encode_responseOf {b : Byte} {i : Instr} (h : responseOf b = .ok i) : encode i = .wire .response [b] := by
  have join : ∀ b : Byte, b.msb = false → 0#1 ++ b.extractLsb' 0 7 = b := by decide
  unfold responseOf at h
  split at h
  · cases h
  · rename_i hb
    cases h
    rw [encode, join b (Bool.eq_false_iff.2 hb)]

theorem encode_tokenOf {b : Byte} {i : Instr} (h : tokenOf b = .ok i) : encode i = .wire .token [b] := by
  unfold tokenOf at h
  split at h
  case h_4 => cases h
  all_goals
    rename_i hb
    cases h
    rw [eq_ofNat_of_toNat hb]
    rfl

/-- A data response is its ignored bits around the three status bits of its masked value (R82). -/
theorem drespByte_fields : ∀ b : Byte, ∀ status : BitVec 3, b &&& 0x0E#8 = 0#4 ++ status ++ 0#1 →
    drespByte (b.extractLsb' 4 4) status (b.extractLsb' 0 1) = b := by decide

theorem encode_drespOf {b : Byte} {i : Instr} (h : drespOf b = .ok i) : encode i = .wire .dataResponse [b] := by
  unfold drespOf at h
  split at h
  case h_4 => cases h
  all_goals
    rename_i hb
    cases h
    rw [encode, drespByte_fields b _ (eq_ofNat_of_toNat hb)]

/-! ### The statements -/

/-- Settles O2: a request's code is in OP, a frame gives its command back, and the one-byte formats are few enough to enumerate. -/
theorem decodeOfEncode : Obligations.DecodeOfEncode := by
  intro i
  cases i
  case r1 st => revert st; decide
  case drespAccepted hi lo | drespCrcRejected hi lo | drespWriteError hi lo => revert hi lo; decide
  case cmd0 | cmd1 | cmd8 | cmd9 | cmd10 | cmd12 | acmd13 | cmd16 | cmd17 | cmd18 | cmd23 | cmd24 | cmd25 | cmd32 | cmd33 | cmd38 |
    acmd41 | acmd51 | cmd55 | cmd58 => exact decode_encodeCommand _ _ _
  all_goals rfl

/-- Settles O3. -/
theorem encodeOfDecode : Obligations.EncodeOfDecode := by
  intro slot bytes i h hend
  generalize hf : Fetch.wire slot bytes = f at h ⊢
  unfold decode at h
  split at h
  case h_1 => cases hf
  case h_2 b0 b1 b2 b3 b4 b5 =>
    cases hf
    obtain ⟨b, hb, hbit⟩ := hend rfl
    obtain rfl : b5 = b := Option.some.inj hb
    rw [encode_commandOf h, argBytes_wordOfBytes, crcOperand_crcField b5 hbit]
    rfl
  case h_3 => exact encode_responseOf h
  case h_4 => exact encode_tokenOf h
  case h_5 => exact encode_drespOf h
  case h_6 => cases h

/-- The operation code a request selects is its OP field (R70, R71). -/
theorem opCode_requestOf : ∀ op : BitVec 4, (requestOf op).opCode? = some op := by decide

/-- Settles O4. -/
theorem everyRequestDecodes : Obligations.EveryRequestDecodes := fun _ h => ⟨_, if_pos h, opCode_requestOf _⟩

/-- Settles O1: each word is decoded. -/
theorem sampleWordsDecode : Obligations.SampleWordsDecode := by
  unfold Obligations.SampleWordsDecode
  decide

/-- Settles O5: the two checksums and frames are computed. -/
theorem crcConstants : Obligations.CrcConstants := by
  unfold Obligations.CrcConstants
  decide +kernel

end Sys2Proof.Machine
end

section
/-! SUPPORT. The reserved requests, the command rows and the data response, each from the lemma that says what its primitive does
(30_encoding.md R71, R75, R82). -/
namespace Sys2Proof.Machine

/-- Settles O15: the first pre-check ends a reserved code. -/
theorem reservedRequestsFail : Obligations.ReservedRequestsFail := by
  intro s hb
  have refused : ∀ {op : BitVec 4}, op.toNat = 0 ∨ 0xA < op.toNat → start op bodyReserved s = complete .fail (latch op s) :=
    fun ho => start_refused hb bodyReserved (preCheck_reserved ho _)
  refine ⟨?_, ?_, ?_, ?_, ?_, ?_⟩ <;> exact congrArg Host.Outcome.next (refused (by decide))

/-- Settles O43: a command row is SendCommand, run alone. -/
theorem commandRowsAnswer : Obligations.CommandRowsAnswer := by
  intro s i idx r arg crc l rest hi q hl hc
  rw [exec_command hi, alone_ok (sendCommand_quiet q hl hc)]
  simp [answered, heard, commandEvents, hc]

/-- Bits 3:1 of a data response are 010 where its masked value is 0x04 (R82). -/
theorem masked_eq_04_iff : ∀ d : Byte, d &&& 0x0E#8 = 0x04#8 ↔ d.extractLsb' 1 3 = 0b010#3 := by decide

/-- Settles O49. -/
theorem acceptanceIs04 : Obligations.AcceptanceIs04 := by
  refine fun s d rest q hc => ⟨?_, masked_eq_04_iff d⟩
  rw [readDataResponse, blk_bind_ok (xchg_quiet q hc filler)]
  simp [takeDresp, blk_bind, heard, xchgEvents, hc, drespMask, drespAccepted, filler]
  rfl

end Sys2Proof.Machine
end

section
/-! SUPPORT. A data operation phase by phase up to one that fails, when nothing arrives from outside and the card's answers are known
(43_block_transfer.md R170 to R176, 44_register_ops.md R200, R203; 60_exceptions.md R221): the body raises a cause whose outcome is FAIL,
and leaves what the phases have done. -/
namespace Sys2Proof.Machine
variable {s t u v : State} {p : Part} {ps : List Part} {ph : Phase} {phs phs' xs : List Phase} {α β : Type} {m : Blk α} {f : α → Blk β}
  {a : α} {b : β} {bad : α → Prop} {bad' : β → Prop}

/-! ### Up to a phase that fails -/

/-- What runs of a phase that fails: of a received block the wait for its token alone (R125). -/
def Phase.cut (c : Config) : Phase → Phase
  | .receive _ _ => .busy c.tokenWaitTries
  | .ready => .ready
  | .command idx arg => .command idx arg
  | .gap n => .gap n
  | .send token off => .send token off
  | .busy bound => .busy bound

/-- These phases pass in these parts up to one that fails, and run as `xs`. -/
inductive Failing (s : State) : List Phase → List Part → List Phase → Prop where
  | here {ph : Phase} {post : List Phase} {p : Part} (h : ph.Fails s p) : Failing s (ph :: post) [p] [ph.cut s.cfg]
  | later {ph : Phase} {phs xs : List Phase} {p : Part} {ps : List Part} (h : ph.Admitted s ∧ ph.Passes s p) (hs : Failing s phs ps xs) :
      Failing s (ph :: phs) (p :: ps) (ph :: xs)

/-- Of consecutive phases one of the first fails, or one of the rest. -/
theorem Failing.split : ∀ {phs : List Phase} {ps : List Part} {xs : List Phase}, Failing s (phs ++ phs') ps xs → Failing s phs ps xs ∨
    ∃ ps₁ ps₂ xs₂, Passed s phs ps₁ ∧ Failing s phs' ps₂ xs₂ ∧ ps = ps₁ ++ ps₂ ∧ xs = phs ++ xs₂
  | [], ps, xs, h => .inr ⟨[], ps, xs, .nil, h, rfl, rfl⟩
  | _ :: _, _, _, .here h => .inl (.here h)
  | _ :: phs, _ :: _, _ :: _, .later h hs => by
    obtain hs | ⟨ps₁, ps₂, xs₂, h₁, h₂, rfl, rfl⟩ := Failing.split (phs := phs) hs
    · exact .inl (.later h hs)
    · exact .inr ⟨_ :: ps₁, ps₂, xs₂, .cons h h₁, h₂, rfl, rfl⟩

/-- A piece falls: it gives a value of `bad`, or raises a cause whose outcome is FAIL; and leaves `v`, up to hidden fields. -/
def Falls (s : State) (bad : α → Prop) (v : State) (r : EStateM.Result Stop State α) : Prop :=
  ∃ u, Working s u ∧ Near u v ∧ ((∃ a, bad a ∧ r = .ok a u) ∨ ∃ c : Cause, c.outcome = .fail ∧ r = .error (.raised c) u)

/-- The piece falls at once, whichever state of the operation it runs on. -/
def Quits (s : State) (m : Blk α) (bad : α → Prop) : Prop := ∀ t, Working s t → Falls s bad t (m t)

/-- Where one of these phases fails, the piece falls. -/
def Breaks (s : State) (m : Blk α) (phs : List Phase) (bad : α → Prop) : Prop := ∀ t ps xs rest, Working s t → Failing s phs ps xs →
  t.card = partsBytes ps ++ rest → Falls s bad (runs t xs ps) (m t)

/-- The piece performs these phases, and falls where one of them fails. -/
structure Attempts (s : State) (m : Blk α) (a : α) (phs : List Phase) (bad : α → Prop) : Prop extends Performs s m a phs where
  breaks : Breaks s m phs bad

/-- No value: a piece falls by a `raise` alone. -/
def Raises (_ : α) : Prop := False

/-! ### Sequences -/

theorem Falls.bind (h : Falls s bad v (m t)) (hq : ∀ x, bad x → Quits s (f x) bad') : Falls s bad' v ((m >>= f) t) := by
  obtain ⟨u, l, n, ⟨x, hx, e⟩ | ⟨c, hc, e⟩⟩ := h
  · obtain ⟨w, lw, nw, hw⟩ := hq x hx u l
    exact ⟨w, lw, nw.trans n, by rw [blk_bind_ok e]; exact hw⟩
  · exact ⟨u, l, n, .inr ⟨c, hc, blk_bind_error e f⟩⟩

theorem Quits.bind (h : Quits s m bad) (hq : ∀ x, bad x → Quits s (f x) bad') : Quits s (m >>= f) bad' := fun t l => (h t l).bind hq

theorem Quits.idly (h : Performs s m a []) (k : Quits s (f a) bad') : Quits s (m >>= f) bad' := fun t l => by
  obtain ⟨u, e, lu, nu⟩ := h.gets t [] _ l .nil rfl
  obtain ⟨w, lw, nw, hw⟩ := k u lu
  exact ⟨w, lw, nw.trans nu, by rw [blk_bind_ok e]; exact hw⟩

/-- A piece that quits by a `raise` quits whatever follows it. -/
theorem Quits.left (h : Quits s m Raises) : Quits s (m >>= f) bad' := h.bind fun _ h => h.elim

theorem Quits.raise {c : Cause} (hc : c.outcome = .fail) : Quits s (raise c) Raises := fun t l => ⟨t, l, .refl t, .inr ⟨c, hc, rfl⟩⟩

theorem Quits.pure {x : α} (h : bad x) : Quits s (pure x) bad := fun t l => ⟨t, l, .refl t, .inl ⟨x, h, rfl⟩⟩

theorem Breaks.nil : Breaks s m [] bad := fun _ _ _ _ _ hf _ => nomatch hf

/-- A phase of the first piece fails. -/
theorem Breaks.left (h : Breaks s m phs bad) (hq : ∀ x, bad x → Quits s (f x) bad') : Breaks s (m >>= f) phs bad' :=
  fun t ps xs rest l hf hc => (h t ps xs rest l hf hc).bind hq

/-- A phase of the first piece fails, or one after it. -/
theorem Breaks.bind (h : Attempts s m a phs bad) (hq : ∀ x, bad x → Quits s (f x) bad') (k : Breaks s (f a) phs' bad') :
    Breaks s (m >>= f) (phs ++ phs') bad' := by
  intro t ps xs rest l hf hc
  obtain hf | ⟨ps₁, ps₂, xs₂, h₁, h₂, rfl, rfl⟩ := hf.split
  · exact (h.breaks t ps xs rest l hf hc).bind hq
  · rw [partsBytes_append, List.append_assoc] at hc
    obtain ⟨u, e, lu, nu⟩ := h.gets t ps₁ _ l h₁ hc
    obtain ⟨w, lw, nw, hw⟩ := k u ps₂ xs₂ rest lu h₂ (by rw [nu]; exact (h₁.runs_card t).trans (by simp [hc]))
    exact ⟨w, lw, by rw [runs_append h₁.length_eq]; exact nw.trans (nu.runs _ _), by rw [blk_bind_ok e]; exact hw⟩

/-- The first piece has no phase. -/
theorem Breaks.idly (h : Performs s m a []) (k : Breaks s (f a) phs' bad') : Breaks s (m >>= f) phs' bad' :=
  .bind (bad := Raises) ⟨h, .nil⟩ (fun _ h => h.elim) k

/-- The first piece can only raise. -/
theorem Breaks.after (h : Attempts s m a phs Raises) (k : Breaks s (f a) phs' bad') : Breaks s (m >>= f) (phs ++ phs') bad' :=
  .bind h (fun _ h => h.elim) k

/-- The first piece has one phase, and can only raise. -/
theorem Breaks.past (h : Attempts s m a [ph] Raises) (k : Breaks s (f a) phs' bad') : Breaks s (m >>= f) (ph :: phs') bad' := .after h k

theorem Attempts.bind (h : Attempts s m a phs bad) (hq : ∀ x, bad x → Quits s (f x) bad') (k : Attempts s (f a) b phs' bad') :
    Attempts s (m >>= f) b (phs ++ phs') bad' := ⟨h.toPerforms.bind k.toPerforms, .bind h hq k.breaks⟩

theorem Attempts.idly (h : Performs s m a []) (k : Attempts s (f a) b phs' bad') : Attempts s (m >>= f) b phs' bad' :=
  ⟨h.bind k.toPerforms, .idly h k.breaks⟩

/-- A phase of the first piece fails, which can only raise. -/
theorem Breaks.first (h : Breaks s m phs Raises) : Breaks s (m >>= f) phs bad' := h.left fun _ h => h.elim

/-- A value is passed on, good or bad. -/
theorem Attempts.map {g : α → β} (h : Attempts s m a phs bad) (hb : g a = b) (hq : ∀ x, bad x → bad' (g x)) :
    Attempts s (m >>= fun x => Pure.pure (g x)) b phs bad' := by
  have pass := h.toPerforms.bind (f := fun x => Pure.pure (g x)) (b := b) (by rw [hb]; exact pure_performs b)
  rw [List.append_nil] at pass
  exact ⟨pass, h.breaks.left fun x hx => .pure (hq x hx)⟩

theorem Breaks.get {g : State → Blk β} (h : ∀ t, Working s t → Breaks s (g t) phs bad') :
    Breaks s ((MonadState.get : Blk State) >>= g) phs bad' :=
  fun t ps xs rest l => h t l t ps xs rest l

theorem Attempts.get {g : State → Blk β} (h : ∀ t, Working s t → Attempts s (g t) b phs bad') :
    Attempts s ((MonadState.get : Blk State) >>= g) b phs bad' := ⟨.get fun t l => (h t l).toPerforms, .get fun t l => (h t l).breaks⟩

/-! ### Tests -/

/-- `if not m: raise Fail(c)` where `m` is false. -/
theorem refusal_quits (n : Nat) {c : Cause} (hc : c.outcome = .fail) (x : Bool) (hx : x = false) :
    Quits s (if x = true then Pure.pure () else part n 2 >>= fun _ => raise c : Blk Unit) Raises := by
  rw [hx]
  exact .idly (part_performs n 2) (.raise hc)

theorem Attempts.require {m : Blk Bool} (h : Attempts s m true phs (· = false)) (n : Nat) {c : Cause} (hc : c.outcome = .fail) :
    Attempts s (require n c m) () phs Raises :=
  ⟨h.toPerforms.require n c, .idly (line_performs n) (h.breaks.left (refusal_quits n hc))⟩

/-- A response other than 0x00 is no acceptance (R78). -/
theorem accepted_eq_false {r : Byte} (h : r ≠ 0x00#8) : accepted r = false := beq_eq_false_iff_ne.2 h

/-- The test of a value that is false. -/
theorem test_quits (n : Nat) {c : Cause} (hc : c.outcome = .fail) {x : Bool} (hx : x = false) :
    Quits s (Machine.require n c (Pure.pure x)) Raises := .idly (line_performs n) (.bind (.pure hx) (refusal_quits n hc))

/-! ### Single phases -/

/-- A piece that gives a value of `bad` where its one phase fails. -/
theorem Breaks.one (h : ∀ t p rest, Working s t → ph.Fails s p → t.card = p.bytes ++ rest →
    ∃ x, bad x ∧ m t = .ok x ((ph.cut s.cfg).run t p)) :
    Breaks s m [ph] bad := by
  intro t ps xs rest l hf hc
  cases hf with
  | here hf =>
    obtain ⟨x, hx, e⟩ := h t _ rest l hf (by simpa [partsBytes] using hc)
    exact ⟨_, l.near (.refl _) l.seq, .refl _, .inl ⟨x, hx, e⟩⟩
  | later _ hs => exact nomatch hs

theorem WaitExhausted.busy {n : Nat} {l : List Byte} (h : WaitExhausted n l) : ∀ x ∈ l, busIdle x = false :=
  fun x hx => beq_eq_false_iff_ne.2 (h.2 x hx)

theorem waitIdle_attempts : Attempts s waitIdle true [.ready] (· = false) where
  toPerforms := waitIdle_performs
  breaks := .one fun t p rest l hf hc => by
    obtain ⟨w, rfl, hw⟩ := hf
    rw [← l.cfg] at hw
    exact ⟨false, rfl, waitIdle_exhausted l.quiet hw.1 hw.busy hc⟩

theorem ready_attempts (n : Nat) : Attempts s (Machine.require n .readyTimeout waitIdle) () [.ready] Raises := waitIdle_attempts.require n rfl

theorem waitWriteBusy_attempts : Attempts s waitWriteBusy true [.busy s.cfg.writeBusyTries] (· = false) where
  toPerforms := waitWriteBusy_performs
  breaks := .one fun t p rest l hf hc => by
    obtain ⟨w, rfl, hw⟩ := hf
    rw [← l.cfg] at hw ⊢
    exact ⟨false, rfl, waitWriteBusy_exhausted l.quiet hw.1 hw.busy hc⟩

theorem waitEraseBusy_exhausted (q : Quiet t) {busy rest : List Byte} (h : WaitExhausted t.cfg.eraseBusyTries busy) (hc : t.card = busy ++ rest) :
    waitEraseBusy t = .ok false (polled t t.cfg.eraseBusyTries busy) := by
  rw [waitEraseBusy, blk_bind_ok (blk_get t), ← h.1, blk_bind_ok (waitFor_exhausted q h.busy hc)]
  rfl

theorem waitEraseBusy_attempts : Attempts s waitEraseBusy true [.busy s.cfg.eraseBusyTries] (· = false) where
  toPerforms := waitEraseBusy_performs
  breaks := .one fun t p rest l hf hc => by
    obtain ⟨w, rfl, hw⟩ := hf
    rw [← l.cfg] at hw ⊢
    exact ⟨false, rfl, waitEraseBusy_exhausted l.quiet hw hc⟩

theorem fillers_attempts (n : Nat) : Attempts s (fillers n) () [.gap n] Raises := ⟨fillers_performs n, .one fun _ _ _ _ hf _ => hf.elim⟩

theorem writeGap_attempts : Attempts s writeGap () [.gap s.cfg.writeGapBytes] Raises := ⟨writeGap_performs, .one fun _ _ _ _ hf _ => hf.elim⟩

theorem sendCommand_attempts (idx : Byte) (arg : Word) : Attempts s (sendCommand idx arg 0x00#8) 0x00#8 [.command idx arg] (· ≠ 0x00#8) where
  toPerforms := sendCommand_performs idx arg
  breaks := .one fun t p rest l hf hc => by
    obtain ⟨w, r, rfl, hw, hr⟩ := hf
    refine ⟨r, hr, (sendCommand_quiet l.quiet (l := w) (by simpa only [CommandReply, l.cfg] using hw) hc).trans ?_⟩
    simp [Phase.cut, Phase.run, Part.run, answered, heard, Part.bytes, Part.events, commandEvents, Part.lastR1, Part.lastDresp, Part.store,
      Phase.tries, Phase.byteIdx, hw.getLast?]

theorem command_attempts (n : Nat) (idx : Byte) (arg : Word) :
    Attempts s (Machine.require n .cmdRejected (isAccepted (sendCommand idx arg 0x00#8))) () [.command idx arg] Raises :=
  ((sendCommand_attempts idx arg).map rfl fun _ => accepted_eq_false).require n rfl

/-- CMD55 is rejected, or the command after it (R106). -/
theorem appCommand_attempts (idx : Byte) (arg : Word) :
    Attempts s (appCommand idx arg) true [.command 55#8 0x00000000#32, .command idx arg] (· = false) :=
  (sendCommand_attempts _ _).bind (fun r hr => by rw [accepted_eq_false hr]; exact .pure rfl)
    ((sendCommand_attempts idx arg).map rfl fun _ => accepted_eq_false)

/-! ### Blocks -/

/-- A wait for a token that brings no 0xFE (R122). -/
theorem waitToken_noStart (q : Quiet t) {l rest : List Byte} (h : NoStartToken t l) (hc : t.card = l ++ rest) :
    ∃ tok, tok ≠ startToken ∧ waitToken t = .ok tok (polled t t.cfg.tokenWaitTries l) := by
  obtain ⟨tok, hn, ht⟩ | ⟨hn, hx⟩ := h
  · exact ⟨tok, hn, waitToken_quiet q ht hc⟩
  · refine ⟨l.getLastD filler, ?_, ?_⟩
    · obtain rfl | ⟨bs, x, rfl⟩ := l.eq_nil_or_concat'
      · decide
      · rw [List.getLastD_concat, hx x (by simp)]
        decide
    · rw [waitToken, blk_bind_ok (blk_get t), ← hn,
        blk_bind_ok (waitFor_exhausted q (fun x hm => by rw [hx x hm]; rfl) hc)]
      rfl

theorem Working.noStartToken (l : Working s t) {w : List Byte} (h : NoStartToken s w) : NoStartToken t w := by
  simpa only [NoStartToken, TokenReply, l.cfg] using h

theorem waitToken_breaks (len off : Nat) : Breaks s waitToken [.receive len off] (· ≠ startToken) := .one fun t p rest l hf hc => by
  obtain ⟨w, rfl, hw⟩ := hf
  rw [← l.cfg]
  exact waitToken_noStart l.quiet (l.noStartToken hw) hc

theorem dataReceive_attempts (len off : Nat) : Attempts s (dataReceive len (s.bufbase.toNat + off)) true [.receive len off] (· = false) where
  toPerforms := dataReceive_performs len off
  breaks := (waitToken_breaks len off).left fun x hx => by
    rw [if_neg hx]
    exact .pure rfl

theorem receiveSector_attempts (k : Nat) : Attempts s (receiveSector k) true [.receive 512 (512 * k)] (· = false) := .get fun t l => by
  rw [bufOff, l.lBuf]
  exact dataReceive_attempts 512 _

theorem receiveRegister_attempts (len off : Nat) : Attempts s (receiveRegister len off) true [.receive len off] (· = false) := .get fun t l => by
  rw [bufOff, l.lBuf]
  exact dataReceive_attempts len off

theorem csdReceive_attempts : Attempts s csdReceive () [.receive 16 0] Raises where
  toPerforms := csdReceive_performs
  breaks := .idly (line_performs 5) <| (waitToken_breaks 16 0).left fun _ hx =>
    (test_quits 6 rfl (beq_eq_false_iff_ne.2 hx)).left

theorem sendSector_attempts (token : Byte) (k : Nat) : Attempts s (sendSector token k) true [.send token (512 * k)] (· = false) where
  toPerforms := sendSector_performs token k
  breaks := .one fun t p rest l hf hc => by
    obtain ⟨b, rfl, hl, hcrc, hb, hd, ha⟩ := hf
    have e := sendBlock_quiet l.quiet l.reqOld token hl hcrc (by simpa [Part.bytes, BlockOut.bytes, hb] using hc) (l.readsAdmitted ha)
    rw [blockSent_near t token _ b hl hcrc hb] at e
    exact ⟨_, beq_eq_false_iff_ne.2 hd, e⟩

end Sys2Proof.Machine
end

section
/-! SUPPORT. The bodies of the data operations where a phase fails, and what the operation leaves (43_block_transfer.md R170 to R176,
44_register_ops.md R200, R203; 60_exceptions.md R221, R224). -/
namespace Sys2Proof.Machine
variable {s t u : State} {ps : List Part} {phs xs : List Phase} {i : Instr} {op : BitVec 4} {α β : Type} {rest : List Byte}

/-! ### Bodies -/

/-- A command answered by another byte than 0x00, and the test after it (R171). -/
theorem rejection_quits (n : Nat) {f : Unit → Blk Unit} (r : Byte) (hr : r ≠ 0x00#8) :
    Quits s (require n .cmdRejected (pure (accepted r)) >>= f) Raises := (test_quits n rfl (accepted_eq_false hr)).left

theorem bodyRd1_breaks (s : State) : ∃ rest, Chooses s bodyRd1 rest ∧ Breaks s rest (phases s .rd1) Raises :=
  ⟨_, address_chooses 1 2, .past (ready_attempts 3) (.idly (line_performs 4) (.bind (sendCommand_attempts _ _) (rejection_quits 5)
    (.idly (test_performs 5 _ rfl) (.first ((receiveSector_attempts 0).require 6 rfl).breaks))))⟩

theorem bodyRdn_breaks (s : State) : ∃ rest, Chooses s bodyRdn rest ∧ Breaks s rest (phases s .rdn) Raises :=
  ⟨_, operands_chooses 1 2 sectorCount_performs, .past (ready_attempts 3) (.idly (line_performs 4)
    ((sendCommand_attempts _ _).breaks.left (rejection_quits 5)))⟩

theorem bodyWr1_breaks (s : State) : ∃ rest, Chooses s bodyWr1 rest ∧ Breaks s rest (phases s .wr1) Raises :=
  ⟨_, address_chooses 1 2, .past (ready_attempts 3) (.idly (line_performs 4) (.bind (sendCommand_attempts _ _) (rejection_quits 5)
    (.idly (test_performs 5 _ rfl) (.idly (line_performs 6) (.past writeGap_attempts (.past ((sendSector_attempts _ 0).require 7 rfl)
      (.first (waitWriteBusy_attempts.require 8 rfl).breaks)))))))⟩

/-- A branch on a condition on the state the operation started in. -/
theorem Attempts.ite {c : Prop} [Decidable c] {m m' : Blk α} {a : α} {phs phs' : List Phase} {bad : α → Prop}
    (h : Attempts s m a phs bad) (h' : Attempts s m' a phs' bad) : Attempts s (if c then m else m') a (if c then phs else phs') bad := by
  split
  · exact h
  · exact h'

theorem announceCount_attempts : Attempts s (announceCount s.arg1) true ((if s.cfg.setBlkCntAppPrefix = true then
    [(55#8, 0x00000000#32), (23#8, s.arg1)] else [(23#8, s.arg1)] : List (Byte × Word)).map fun c => .command c.1 c.2) (· = false) := by
  refine .idly (line_performs 5) (.get fun t l => ?_)
  rw [l.cfg, apply_ite (List.map _)]
  exact .ite (.idly (part_performs 5 2) (appCommand_attempts _ _)) (.idly (line_performs 6)
    ((sendCommand_attempts _ _).map rfl fun _ => accepted_eq_false))

theorem announceUnlessMmc_attempts : Attempts s (announceUnlessMmc s.arg1) () ((announceCommands s).map fun c => .command c.1 c.2) Raises := by
  refine .idly (line_performs 4) (.get fun t l => ?_)
  rw [l.family, announceCommands, apply_ite (List.map _)]
  refine .ite ⟨pure_performs (), .nil⟩ ?_
  rw [← List.append_nil (List.map _ _)]
  exact announceCount_attempts.bind (fun _ => test_quits 7 rfl) ⟨test_performs 7 _ rfl, .nil⟩

theorem bodyWrn_breaks (s : State) : ∃ rest, Chooses s bodyWrn rest ∧ Breaks s rest (phases s .wrn) Raises := by
  refine ⟨_, operands_chooses 1 2 sectorCount_performs, ?_⟩
  rw [phases, List.map_append]
  exact .after (ready_attempts 3) (.after announceUnlessMmc_attempts (.idly (line_performs 8)
    ((sendCommand_attempts _ _).breaks.left (rejection_quits 9))))

theorem bodyErase_breaks (s : State) : ∃ rest, Chooses s bodyErase rest ∧ Breaks s rest (phases s .erase) Raises :=
  ⟨_, operands_chooses 1 2 lastAddress_performs, .past (ready_attempts 3) (.past (command_attempts 4 _ _) (.past (command_attempts 5 _ _)
    (.past (command_attempts 6 _ _) (.first (waitEraseBusy_attempts.require 7 rfl).breaks))))⟩

theorem bodyStat_breaks (s : State) : ∃ rest, Chooses s bodyStat rest ∧ Breaks s rest (phases s .stat) Raises :=
  ⟨_, line_chooses 1, .past (ready_attempts 2) (.after ((appCommand_attempts _ _).require 3 rfl) (.idly (line_performs 4)
    (.past (fillers_attempts 1) (.first ((receiveRegister_attempts 64 0).require 5 rfl).breaks))))⟩

theorem scrUnlessMmc_attempts : Attempts s scrUnlessMmc () (if s.family = .mmc then [] else
    [.ready, .command 55#8 0x00000000#32, .command 51#8 0x00000000#32, .receive 8 32]) Raises := by
  refine .idly (line_performs 17) (.get fun t l => ?_)
  rw [l.family]
  exact .ite ⟨pure_performs (), .nil⟩ ((ready_attempts 18).bind (fun _ h => h.elim) (((appCommand_attempts _ _).require 19 rfl).bind
    (fun _ h => h.elim) ((receiveRegister_attempts 8 32).require 20 rfl)))

theorem bodyInfo_breaks (s : State) : ∃ rest, Chooses s bodyInfo rest ∧ Breaks s rest (phases s .info) Raises := by
  refine ⟨_, line_chooses 1, ?_⟩
  rw [phases]
  exact .past (ready_attempts 3) (.past (command_attempts 4 _ _) (.past csdReceive_attempts (.past (ready_attempts 13)
    (.past (command_attempts 14 _ _) (.past ((receiveRegister_attempts 16 16).require 15 rfl) (.first scrUnlessMmc_attempts.breaks))))))

/-- Every operation with a phase raises where one of them fails. -/
theorem exec_breaks (h : i.opCode? = some op) (hf : Failing s (phases s i) ps xs) : ∃ body rest, exec i s = .next (start op body s) ∧
    (i = .info → body = bodyInfo) ∧ Chooses s body rest ∧ Breaks s rest (phases s i) Raises := by
  cases i
  case rd1 => obtain ⟨rest, hb⟩ := bodyRd1_breaks s; cases h; exact ⟨_, rest, rfl, nofun, hb⟩
  case rdn => obtain ⟨rest, hb⟩ := bodyRdn_breaks s; cases h; exact ⟨_, rest, rfl, nofun, hb⟩
  case wr1 => obtain ⟨rest, hb⟩ := bodyWr1_breaks s; cases h; exact ⟨_, rest, rfl, nofun, hb⟩
  case wrn => obtain ⟨rest, hb⟩ := bodyWrn_breaks s; cases h; exact ⟨_, rest, rfl, nofun, hb⟩
  case erase => obtain ⟨rest, hb⟩ := bodyErase_breaks s; cases h; exact ⟨_, rest, rfl, nofun, hb⟩
  case stat => obtain ⟨rest, hb⟩ := bodyStat_breaks s; cases h; exact ⟨_, rest, rfl, nofun, hb⟩
  case info => obtain ⟨rest, hb⟩ := bodyInfo_breaks s; cases h; exact ⟨_, rest, rfl, fun _ => rfl, hb⟩
  all_goals exact nomatch hf

/-! ### What the operation leaves -/

theorem Failing.length_eq (h : Failing s phs ps xs) : xs.length = ps.length := by
  induction h with
  | here _ => rfl
  | later _ _ ih => exact congrArg (· + 1) ih

/-- A part in which a phase fails stores nothing, and reads nothing unless the phase sends a block. -/
theorem Phase.Fails.oneWay {ph : Phase} {p : Part} (h : ph.Fails s p) : (ph.sends = false → p.ReadsNothing) ∧ p.StoresNothing := by
  cases ph with
  | gap => exact h.elim
  | ready | receive | busy => obtain ⟨_, rfl, -⟩ := h; exact ⟨fun _ _ _ _ _ => rfl, fun _ _ _ => rfl⟩
  | command => obtain ⟨_, _, rfl, -⟩ := h; exact ⟨fun _ _ _ _ _ => rfl, fun _ _ _ => rfl⟩
  | send => obtain ⟨_, rfl, -⟩ := h; exact ⟨nofun, fun _ _ _ => rfl⟩

theorem Failing.phase (h : Failing s phs ps xs) : ∀ p ∈ ps, ∃ ph ∈ phs, ph.Passes s p ∨ ph.Fails s p := by
  induction h with
  | @here ph post p h => exact List.forall_mem_singleton.2 ⟨ph, by simp, .inr h⟩
  | @later ph phs xs p ps h _ ih =>
    refine List.forall_mem_cons.2 ⟨⟨ph, by simp, .inl h.2⟩, fun q hq => ?_⟩
    obtain ⟨x, hx, hq⟩ := ih q hq
    exact ⟨x, by simp [hx], hq⟩

/-- The parts of an operation are of one way. -/
theorem Failing.oneWay (h : Failing s (phases s i) ps xs) : (∀ p ∈ ps, p.ReadsNothing) ∨ ∀ p ∈ ps, p.StoresNothing := by
  refine (phases_oneWay s i).imp (fun k p hp => ?_) fun k p hp => ?_ <;> obtain ⟨ph, hm, hph | hph⟩ := h.phase p hp
  · exact Phase.readsNothing (.inl hph) (k ph (by simp [hm]))
  · exact hph.oneWay.1 (k ph (by simp [hm]))
  · exact Phase.storesNothing (.inl hph) (k ph (by simp [hm]))
  · exact hph.oneWay.2

/-- The run of an operation one of whose phases fails: its body raises, and Release and the completion follow. -/
theorem exec_raises (h : i.opCode? = some op) (q : Quiet s) (hbusy : s.busy = false) (hpre : preCheck op s = none)
    (hf : Failing s (phases s i) ps xs) {trail : Byte} (hc : s.card = partsBytes ps ++ trail :: rest) : ∃ (body : Blk Unit) (c : Cause) (u : State),
    (i = .info → body = bodyInfo) ∧ body (started op s) = .error (.raised c) u ∧ Near u (runs (chosen (started op s)) xs ps) ∧
    exec i s = .next (complete .fail (released u trail)) := by
  obtain ⟨body, tail, hex, hinfo, hopen, hbreaks⟩ := exec_breaks h hf
  obtain ⟨u₀, e₀, l₀, n₀⟩ := hopen _ (started_working op q)
  obtain ⟨u, l, n, ⟨_, ha, -⟩ | ⟨c, hfail, e⟩⟩ := hbreaks u₀ ps xs _ l₀ hf (by rw [n₀]; exact hc)
  · exact ha.elim
  have near := n.trans (n₀.runs xs ps)
  have loose := near.loose.trans (runs_loose xs _ ps hf.length_eq)
  rw [plays_eq hf.oneWay] at loose
  have hcs : u.cs = true := congrArg State.cs loose
  have hcard : u.card = trail :: rest := (congrArg State.card loose).trans ((congrArg _ hc).trans List.drop_left)
  refine ⟨body, c, u, hinfo, e₀.trans e, near, ?_⟩
  rw [hex, start_runs hbusy body hpre, ← hfail, ← finishRun_selected l.quiet hcs _ hcard]
  exact congrArg _ (run_raised (e₀.trans e))

/-- What an operation leaves one of whose phases fails (R221, R224). For INFO it has to be said that CSD_SHADOW is as it was. -/
theorem exec_fails (h : i.opCode? = some op) (q : Quiet s) (hbusy : s.busy = false) (hpre : preCheck op s = none)
    (hf : Failing s (phases s i) ps xs) {trail : Byte} (hc : s.card = partsBytes ps ++ trail :: rest) {n : Nat}
    (hn : (partsBytes ps).length + 1 = n)
    (hinfo : i = .info → ∃ c u, bodyInfo (started op s) = .error (.raised c) u ∧ u.csdShadow = s.csdShadow) :
    exec i s = .next (complete .fail (passedState op s xs ps n trail rest)) := by
  obtain ⟨body, c, u, hbody, e, hu, hrun⟩ := exec_raises h q hbusy hpre hf hc
  have hcsd : u.csdShadow = s.csdShadow := by
    by_cases hi : i = .info
    · obtain ⟨c', u', e', hcsd⟩ := hinfo hi
      rw [hbody hi, e'] at e
      cases e
      exact hcsd
    · exact exec_csdShadow (t := complete .fail (released u trail)) h hi q hrun
  have hl := runs_loose xs (chosen (started op s)) ps hf.length_eq
  rw [plays_eq hf.oneWay] at hl
  obtain ⟨htries, hidx⟩ := runs_counters xs (t := chosen (started op s)) (u := latch op s) ps rfl rfl rfl
  obtain ⟨hsector, hres⟩ := runs_keep xs (chosen (started op s)) ps
  rw [hrun, ← hn, hu, hl]
  simp only [complete, released, passedState, near, loose, hcsd, htries, hidx, hsector, hres]
  simp [hc, partsStore, partsEvents, selectEvents, chosen, started, latch, releaseEvents, Nat.add_assoc]

end Sys2Proof.Machine
end

section
/-! SUPPORT. Data operations that fail at their wait-ready, their first command, their token or their block: one failing phase each
(43_block_transfer.md R170 to R176; 60_exceptions.md R221). -/
namespace Sys2Proof.Machine
variable {s : State} {i : Instr} {op : BitVec 4} {idx r : Byte} {arg : Word} {w c rest : List Byte}

/-- A data operation passes the pre-checks after a successful INIT, ERASE and STAT on a card that is no MMC (R223). -/
theorem preCheck_dataOp (h : i.opCode? = some op) (h4 : 0x4 ≤ op.toNat) (hA : op.toNat ≤ 0xA)
    (hf : i = .erase ∨ i = .stat → s.family ≠ .mmc) (hinit : s.initOk = true) : preCheck op s = none :=
  preCheck_ready h4 hA hinit fun hop => hf <| by
    cases i <;> simp only [Instr.opCode?, reduceCtorEq, Option.some.injEq] at h <;> subst h <;> simp_all

/-- A data operation begins with the wait-ready (R170). -/
theorem phases_ready (h : i.opCode? = some op) (h4 : 0x4 ≤ op.toNat) (hA : op.toNat ≤ 0xA) : ∃ post, phases s i = .ready :: post := by
  cases i
  case rd1 | rdn | wr1 | wrn | erase | info | stat => exact ⟨_, rfl⟩
  all_goals simp only [Instr.opCode?, reduceCtorEq, Option.some.injEq] at h
  all_goals subst h; simp at h4 hA

/-- No count is announced, or one by CMD23, after CMD55 or alone (R175). -/
theorem announceCommands_cases (s : State) : announceCommands s = [] ∨
    ∃ y, announceCommands s = [(55#8, 0x00000000#32), (23#8, y)] ∨ announceCommands s = [(23#8, y)] := by
  rw [announceCommands]
  split
  · exact .inl rfl
  · split
    · exact .inr ⟨_, .inl rfl⟩
    · exact .inr ⟨_, .inr rfl⟩

/-- The first command follows the wait-ready, and is no CMD12. -/
theorem phases_firstCommand (h : firstCommand s i = some (idx, arg)) :
    idx ≠ 12#8 ∧ ∃ post, phases s i = .ready :: .command idx arg :: post := by
  cases i
  case rd1 | rdn | wr1 | erase | info | stat => cases h; exact ⟨by decide, _, rfl⟩
  case wrn =>
    simp only [firstCommand, Option.some.injEq] at h
    obtain ha | ⟨y, ha | ha⟩ := announceCommands_cases s <;> rw [ha] at h <;> cases h <;>
      exact ⟨by decide, _, by rw [phases, ha]; rfl⟩
  all_goals exact nomatch h

/-- The operations with a first command are the seven data operations. -/
theorem firstCommand_dataOp (h : firstCommand s i = some (idx, arg)) (hop : i.opCode? = some op) : 0x4 ≤ op.toNat ∧ op.toNat ≤ 0xA := by
  cases i
  case rd1 | rdn | wr1 | wrn | erase | info | stat => cases hop; decide
  all_goals exact nomatch h

/-- INFO that fails at its wait-ready leaves CSD_SHADOW (R200). -/
theorem bodyInfo_busy (q : Quiet s) (h : WaitExhausted s.cfg.idleWaitTries w) (hc : s.card = w ++ rest) :
    ∃ c u, bodyInfo s = .error (.raised c) u ∧ u.csdShadow = s.csdShadow :=
  ⟨_, _, opening_timeout q h.1 h.busy hc 1 3 _, rfl⟩

/-- INFO whose CMD9 is rejected leaves CSD_SHADOW (R200). -/
theorem bodyInfo_rejected (q : Quiet s) (hw : IdleReply s w) (h : CommandReply s 9#8 r c) (hr : r ≠ 0x00#8) (hc : s.card = w ++ (c ++ rest)) :
    ∃ c u, bodyInfo s = .error (.raised c) u ∧ u.csdShadow = s.csdShadow := by
  have hcmd := isAccepted_quiet (s := { opened s 3 w with seq := .body 4 1 }) q (arg := 0x00000000#32) (crc := 0x00#8) h
    (show (opened s 3 w).card = c ++ rest by simp [hc])
  rw [accepted_eq_false hr] at hcmd
  exact ⟨_, _, (opening_quiet q hw hc 1 3 _).trans (blk_bind_error (require_failed (s := opened s 3 w) q 4 _ hcmd q) _), rfl⟩

/-- Settles O39: the wait-ready fails. -/
theorem readyTimeoutFails : Obligations.ReadyTimeoutFails := by
  intro s i op busy trail rest hop h4 hA hf q hr hlen hx hcard
  obtain ⟨post, hp⟩ := phases_ready (s := s) hop h4 hA
  have hw : WaitExhausted s.cfg.idleWaitTries busy := ⟨hlen, hx⟩
  have hfail : Failing s (phases s i) [.polls busy] [.ready] := by rw [hp]; exact .here ⟨busy, rfl, hw⟩
  rw [exec_fails hop q hr.1 (preCheck_dataOp hop h4 hA hf hr.2) hfail (trail := trail) (rest := rest) (by simp [hcard, partsBytes, Part.bytes])
    (n := busy.length + 1) (by simp [partsBytes, Part.bytes]) fun _ => bodyInfo_busy (s := started op s) q hw hcard]
  simp [passedState, Part.bytes, Part.lastR1, Part.lastDresp, partsStore, Part.store, partsEvents, Part.events, runs, Phase.run,
    Part.run, Phase.tries, Phase.byteIdx, hlen]

/-- Settles O40: the wait-ready passes, and the first command fails. -/
theorem firstCommandRejected : Obligations.FirstCommandRejected := by
  intro s i op idx r arg w c trail rest hop hcmd hf q hr hw hc hne hcard
  obtain ⟨h12, post, hp⟩ := phases_firstCommand hcmd
  obtain ⟨h4, hA⟩ := firstCommand_dataOp hcmd hop
  have hfail : Failing s (phases s i) [.polls w, .command idx arg 0x00#8 c] [.ready, .command idx arg] := by
    rw [hp]
    exact .later ⟨trivial, w, rfl, hw⟩ (.here ⟨c, r, rfl, hc, hne⟩)
  have hinfo : i = .info → ∃ c u, bodyInfo (started op s) = .error (.raised c) u ∧ u.csdShadow = s.csdShadow := by
    rintro rfl
    cases hcmd
    exact bodyInfo_rejected (s := started op s) (w := w) (c := c) (rest := trail :: rest) q hw hc hne (by simpa using hcard)
  rw [exec_fails hop q hr.1 (preCheck_dataOp hop h4 hA hf hr.2) hfail (trail := trail) (rest := rest) (by simp [hcard, partsBytes, Part.bytes])
    (n := w.length + c.length + 1) (by simp [partsBytes, Part.bytes]) hinfo]
  simp [passedState, Part.bytes, Part.lastR1, Part.lastDresp, partsStore, Part.store, partsEvents, Part.events, runs, Phase.run,
    Part.run, Phase.tries, Phase.byteIdx, hc.getLast?, h12]

/-- Settles O25: the wait-ready and CMD17 pass, and the wait for the token fails. -/
theorem rd1WrongToken : Obligations.Rd1WrongToken := by
  intro s w c t trail rest q hr hw hc ht hcard
  have hfail : Failing s (phases s .rd1) [.polls w, .command 17#8 (adjust s.family s.arg0) 0x00#8 c, .polls t]
      [.ready, .command 17#8 (adjust s.family s.arg0), .busy s.cfg.tokenWaitTries] :=
    .later ⟨trivial, w, rfl, hw⟩ (.later ⟨trivial, c, rfl, hc⟩ (.here ⟨t, rfl, ht⟩))
  have hpre : preCheck 0x4#4 s = none := preCheck_ready (by decide) (by decide) hr.2 fun h => absurd h (by decide)
  rw [exec_fails rfl q hr.1 hpre hfail (trail := trail) (rest := rest) (by simp [hcard, partsBytes, Part.bytes])
    (n := w.length + c.length + t.length + 1) (by simp [partsBytes, Part.bytes, Nat.add_assoc]) nofun]
  simp [passedState, Part.bytes, Part.lastR1, Part.lastDresp, partsStore, Part.store, partsEvents, Part.events, runs, Phase.run,
    Part.run, Phase.tries, Phase.byteIdx, hc.getLast?, Nat.add_assoc]

/-- Settles O29: the wait-ready, CMD24 and the gap pass, and the block is rejected. -/
theorem wr1DataRejected : Obligations.Wr1DataRejected := by
  intro s w c gap b trail rest q hr ha hw hc hg hl hcrc hb hd hcard
  have hfail : Failing s (phases s .wr1) [.polls w, .command 24#8 (adjust s.family s.arg0) 0x00#8 c, .polls gap, .blockOut 0xFE#8 0 b]
      [.ready, .command 24#8 (adjust s.family s.arg0), .gap s.cfg.writeGapBytes, .send 0xFE#8 0] :=
    .later ⟨trivial, w, rfl, hw⟩ (.later ⟨trivial, c, rfl, hc⟩ (.later ⟨trivial, gap, rfl, hg⟩
      (.here ⟨b, rfl, hl, hcrc, hb, hd, ha⟩)))
  have hpre : preCheck 0x6#4 s = none := preCheck_ready (by decide) (by decide) hr.2 fun h => absurd h (by decide)
  refine ⟨_, exec_fails rfl q hr.1 hpre hfail (trail := trail) (rest := rest) (by simp [hcard, partsBytes, Part.bytes])
    (n := w.length + c.length + gap.length + 516 + 1)
    (by simp [partsBytes, Part.bytes, BlockOut.bytes, hl, hcrc, hb]; omega) nofun, ?_⟩
  simp [passedState, complete, Part.lastR1, Part.lastDresp, partsStore, Part.store, partsEvents, Part.events, runs, Phase.run,
    Part.run, Phase.byteIdx, hc.getLast?, Nat.add_assoc]

end Sys2Proof.Machine
end

section
/-! SUPPORT. WRN where its transfer fails (43_block_transfer.md R175): the loop ends, and the stop token, one byte and the wait-ready
follow whatever it ended by. -/
namespace Sys2Proof.Machine
variable {s t u : State} {k n : Nat} {b : BlockOut} {bs last : List BlockOut} {c : Cause} {w rest : List Byte} {a₁ a₂ : Byte}

/-! ### The loop -/

/-- LAST_DRESP after these blocks: the last one's masked response (R38, R126). -/
def blocksDresp (d : Byte) (bs : List BlockOut) : Byte :=
  match bs.getLast? with
  | some b => b.dresp &&& 0x0E#8
  | none => d

theorem blocksDresp_append_one (d : Byte) (bs : List BlockOut) (b : BlockOut) : blocksDresp d (bs ++ [b]) = b.dresp &&& 0x0E#8 := by
  simp [blocksDresp]

/-- Blocks that were all accepted leave 0x04. -/
theorem blocksDresp_good (h : ∀ b ∈ bs, b.Good s) (d : Byte) : blocksDresp d bs = if bs = [] then d else 0x04#8 := by
  obtain rfl | ⟨bs, b, rfl⟩ := bs.eq_nil_or_concat'
  · rfl
  · obtain ⟨-, -, hd, -⟩ := h b (by simp)
    simpa [blocksDresp_append_one, drespAccepted, drespMask] using hd

theorem sectorsOutEvents_append (w : Nat) (m : List Host.Cell) : ∀ (bs bs' : List BlockOut) (src : Nat),
    sectorsOutEvents w m src (bs ++ bs') = sectorsOutEvents w m src bs ++ sectorsOutEvents w m (src + 512 * bs.length) bs'
  | [], _, _ => rfl
  | b :: bs, bs', src => by
    simp [sectorsOutEvents, sectorsOutEvents_append w m bs bs' (src + 512), Nat.mul_add, Nat.add_assoc, Nat.add_comm 512]

/-- How a block ends WRN's loop, and the cause it keeps: the card rejects it, or its writing does not end within the bound (R126, R175). -/
def EndsLoop (s : State) (b : BlockOut) (c : Cause) : Prop :=
  b.payload.length = 512 ∧ b.crc.length = 2 ∧ (c = .dataRejected ∧ b.dresp &&& 0x0E#8 ≠ 0x04#8 ∧ b.busy = [] ∨
    c = .writeBusyTimeout ∧ b.dresp &&& 0x0E#8 = 0x04#8 ∧ WaitExhausted s.cfg.writeBusyTries b.busy)

/-- The exchanges of a sent block, up to its data response. -/
theorem blockSent_eq (token : Byte) (off : Nat) (hl : b.payload.length = 512) (hcrc : b.crc.length = 2) :
    blockSent s token (s.lBuf.toNat + off) b.token b.payload b.crc b.dresp = { s with
      byteIdx := 511, lastDresp := b.dresp &&& 0x0E#8, card := s.card.drop 516, xchgs := s.xchgs + 516,
      trace := ({ b with busy := [] }.events s.cfg.bufAddrWidth s.mem token (s.lBuf.toNat + off)).reverse ++ s.trace } := by
  have e := blockSent_near s token off { b with busy := [] } hl hcrc rfl
  refine e.trans ?_
  simp [Phase.run, Part.run, Part.bytes, BlockOut.bytes, Part.events, Part.store, Part.lastR1, Part.lastDresp, Phase.tries, Phase.byteIdx, hl, hcrc]

/-- A sector is sent up to its data response, whatever that is (R126). -/
theorem sendSector_leaves (q : Quiet s) (hr : s.reqOld = []) (token : Byte) (hl : b.payload.length = 512) (hcrc : b.crc.length = 2)
    (hc : s.card = [b.token] ++ b.payload ++ b.crc ++ [b.dresp] ++ rest) (ha : ReadsAdmitted s (s.lBuf.toNat + 512 * k) 512) :
    ∃ t, sendSector token k s = .ok (drespAccepted (drespMask b.dresp)) t ∧ t = { s with
      byteIdx := 511, lastDresp := b.dresp &&& 0x0E#8, card := rest, xchgs := s.xchgs + 516,
      trace := ({ b with busy := [] }.events s.cfg.bufAddrWidth s.mem token (s.lBuf.toNat + 512 * k)).reverse ++ s.trace } := by
  have hdrop : s.card.drop 516 = rest := by
    rw [hc]
    exact List.drop_left' (by simp [hl, hcrc])
  exact ⟨_, (sendSector_eq token k s).trans (sendBlock_quiet q hr token hl hcrc hc ha), by rw [blockSent_eq token _ hl hcrc, hdrop]⟩

/-- A block whose writing does not end within the bound ends the loop (R175). -/
theorem wrnLoop_unwritten (q : Quiet s) (hsend : sendSector multiWriteToken k { s with seq := .body 13 1, sector := k } = .ok true t) (qt : Quiet t)
    (hwait : waitWriteBusy { t with seq := .body 15 1 } = .ok false u) (qu : Quiet u) :
    wrnLoop k (n + 1) s = .ok () { u with seq := .body 16 2, res := .failed .writeBusyTimeout } := by
  rw [wrnLoop, blk_bind_ok (line_quiet q 12), blk_bind_ok (setSector_apply _ _),
    blk_bind_ok (line_quiet (s := { s with seq := .body 12 1, sector := k }) q 13), blk_bind_ok hsend, if_pos rfl, blk_bind_ok (line_quiet qt 15),
    blk_bind_ok hwait, if_neg (by decide), blk_bind_ok (line_quiet qu 16), blk_bind_ok (setRes_apply _ _)]
  exact part_quiet (s := { u with seq := .body 16 1, res := .failed .writeBusyTimeout }) qu 16 2

/-- The block that ends the loop is sent whole, and its cause is kept in RES (R175). -/
theorem wrnLoop_ends (q : Quiet s) (hr : s.reqOld = []) (h : EndsLoop s b c) (hc : s.card = b.bytes ++ rest)
    (ha : ReadsAdmitted s (s.lBuf.toNat + 512 * k) 512) : ∃ u, wrnLoop k (n + 1) s = .ok () u ∧ u = { s with
      seq := u.seq, sector := u.sector, byteIdx := u.byteIdx, tries := u.tries, res := .failed c, lastDresp := b.dresp &&& 0x0E#8, card := rest,
      xchgs := s.xchgs + b.bytes.length,
      trace := (b.events s.cfg.bufAddrWidth s.mem multiWriteToken (s.lBuf.toNat + 512 * k)).reverse ++ s.trace } := by
  obtain ⟨hl, hcrc, ⟨rfl, hd, hb⟩ | ⟨rfl, hd, hx⟩⟩ := h
  · refine ⟨_, wrnLoop_rejected q hr hl hcrc hb (beq_eq_false_iff_ne.2 hd) hc ha, ?_⟩
    rw [show blockSent { s with sector := k } _ _ _ _ _ _ = _ from blockSent_eq (s := { s with sector := k }) _ (512 * k) hl hcrc]
    have hlen : b.bytes.length = 516 := by simp [BlockOut.bytes, hl, hcrc, hb]
    have hdrop : s.card.drop 516 = rest := by rw [hc, ← hlen, List.drop_left]
    simp [hdrop, hlen, BlockOut.events, hb]
  · obtain ⟨t, hsend, ht⟩ := sendSector_leaves (s := { s with seq := .body 13 1, sector := k }) (k := k) (rest := b.busy ++ rest) q hr
      multiWriteToken hl hcrc (by simpa [BlockOut.bytes] using hc) ha
    have qt : Quiet t := by rw [ht]; exact q
    rw [drespMask, hd] at hsend
    have hwait := waitWriteBusy_exhausted (s := { t with seq := .body 15 1 }) qt (by rw [ht]; exact hx.1) hx.busy
      (show t.card = _ by rw [ht])
    refine ⟨_, wrnLoop_unwritten q hsend qt hwait qt, ?_⟩
    rw [ht]
    simp [polled, withTries, heard, BlockOut.bytes, BlockOut.events, hl, hcrc, pollEvents, xchgEvents]
    omega

/-- The loop after `bs` accepted blocks: one more block ends it, or every sector is sent (R175). -/
theorem wrnLoop_fails (q : Quiet s) (hr : s.reqOld = []) (hb : ∀ b ∈ bs, b.Good s)
    (h : (∃ b, last = [b] ∧ bs.length < n ∧ EndsLoop s b c) ∨ last = [] ∧ bs.length = n)
    (ha : ReadsAdmitted s s.lBuf.toNat (512 * n)) (hc : s.card = ((bs ++ last).map BlockOut.bytes).flatten ++ rest) :
    ∃ u, wrnLoop 0 n s = .ok () u ∧ u = { s with
      seq := u.seq, sector := u.sector, byteIdx := u.byteIdx, tries := u.tries, res := if last = [] then s.res else .failed c,
      lastDresp := blocksDresp s.lastDresp (bs ++ last), card := rest,
      xchgs := s.xchgs + ((bs ++ last).map BlockOut.bytes).flatten.length,
      trace := (sectorsOutEvents s.cfg.bufAddrWidth s.mem s.lBuf.toNat (bs ++ last)).reverse ++ s.trace } := by
  rw [List.map_append, List.flatten_append, List.append_assoc] at hc
  obtain ⟨b, rfl, hlt, hend⟩ | ⟨rfl, rfl⟩ := h
  · obtain ⟨m, rfl⟩ : ∃ m, n = bs.length + (m + 1) := ⟨n - bs.length - 1, by omega⟩
    obtain ⟨t, e, ht⟩ := wrnLoop_quiet (k := 0) q hr hc hb (fun i hi => ha i (by omega)) (m + 1)
    obtain ⟨u, e', hu⟩ := wrnLoop_ends (s := t) (k := 0 + bs.length) (n := m) (b := b) (c := c) (rest := rest) (by rw [ht]; exact q)
      (by rw [ht]; exact hr) (by rw [ht]; exact hend) (by rw [ht]; simp) (fun i hi => by
        rw [ht, Nat.zero_add, Nat.add_assoc]
        exact ha (512 * bs.length + i) (by omega))
    refine ⟨u, e.trans e', ?_⟩
    rw [hu, ht]
    simp [blocksDresp_append_one, sectorsOutEvents_append, sectorsOutEvents, Nat.add_assoc]
  · obtain ⟨t, e, ht⟩ := wrnLoop_quiet (k := 0) q hr hc hb ha 0
    refine ⟨_, e.trans (line_quiet (by rw [ht]; exact q) 12), ?_⟩
    rw [ht]
    simp [blocksDresp_good hb]

/-! ### The close -/

theorem returnRes_failed (h : t.res = .failed c) : returnRes t = .error (.raised c) t := by
  rw [returnRes, blk_bind_ok (blk_get t), h]
  rfl

/-- RES and the closing wait together give this cause: an earlier one is kept, whatever the wait brings; else the wait fails (R175). -/
def ClosesWith (s : State) (w : List Byte) (c : Cause) : Prop :=
  s.res = .failed c ∧ (IdleReply s w ∨ WaitExhausted s.cfg.idleWaitTries w) ∨
    s.res = .ok ∧ c = .readyTimeout ∧ WaitExhausted s.cfg.idleWaitTries w

/-- The closing wait-ready is exhausted: its cause is kept where there was none before (R175). -/
theorem closeWait_timeout (q : Quiet t) (h : WaitExhausted t.cfg.idleWaitTries w) (hc : t.card = w ++ rest) : ∃ v, closeWait t = .ok () v ∧
    v = { polled t t.cfg.idleWaitTries w with seq := v.seq, res := if t.res = .ok then .failed .readyTimeout else t.res } := by
  have e : closeWait t = (if t.res = .ok then (do part 20 2; setRes (.failed .readyTimeout)) else pure () : Blk Unit)
      { polled t t.cfg.idleWaitTries w with seq := .body 20 1 } := by
    rw [closeWait, blk_bind_ok (line_quiet q 19), blk_bind_ok (waitIdle_exhausted (s := { t with seq := .body 19 1 }) q h.1 h.busy hc)]
    exact blk_bind_ok (line_quiet (s := polled { t with seq := .body 19 1 } t.cfg.idleWaitTries w) q 20) _
  by_cases hres : t.res = .ok
  · rw [if_pos hres] at e ⊢
    exact ⟨_, e.trans (blk_bind_ok (part_quiet (by exact q) 20 2) _), rfl⟩
  · rw [if_neg hres] at e ⊢
    exact ⟨_, e, rfl⟩

/-- The closing wait-ready leaves the cause in RES (R175). -/
theorem closeWait_keeps (q : Quiet t) (h : ClosesWith t w c) (hc : t.card = w ++ rest) : ∃ v, closeWait t = .ok () v ∧
    v = { polled t t.cfg.idleWaitTries w with seq := v.seq, res := .failed c } := by
  obtain ⟨hres, hw | hw⟩ | ⟨hres, rfl, hw⟩ := h
  · refine ⟨_, closeWait_idle q hw hc, ?_⟩
    simp [polled, withTries, heard, ← hres]
  · simpa [hres] using closeWait_timeout q hw hc
  · simpa [hres] using closeWait_timeout q hw hc

/-- The close of WRN, whatever its loop ended by (R175): the stop token, one byte, the wait-ready, and the cause is raised. -/
def wrnClose : Blk Unit := do
  line 17
  let _ ← xchg stopToken
  line 18
  fillers 1
  closeWait
  line 21
  returnRes

theorem wrnClose_raises (q : Quiet t) (h : ClosesWith t w c) (hc : t.card = a₁ :: a₂ :: (w ++ rest)) : ∃ v,
    wrnClose t = .error (.raised c) v ∧ v = { t with
      seq := v.seq, tries := t.cfg.idleWaitTries - w.length, res := .failed c, card := rest, xchgs := t.xchgs + (2 + w.length),
      trace := ([Event.xchg 0xFD#8 a₁, Event.xchg 0xFF#8 a₂] ++ pollEvents w).reverse ++ t.trace } := by
  have e₁₇ := xchg_quiet (s := { t with seq := .body 17 1 }) q hc stopToken
  have e₁₈ := fillers_quiet (n := 1) (s := { heard t [stopToken] [a₁] with seq := .body 18 1 }) q (ins := [a₂]) (rest := w ++ rest)
    (by simp [hc]) rfl
  obtain ⟨v, e₁₉, hv⟩ := closeWait_keeps (t := heard { heard t [stopToken] [a₁] with seq := .body 18 1 } [filler] [a₂]) (w := w) (c := c)
    (rest := rest) q h (by simp [hc])
  refine ⟨{ v with seq := .body 21 1 }, ?_, ?_⟩
  · refine (blk_bind_ok (line_quiet q 17) _).trans ((blk_bind_ok e₁₇ _).trans
      ((blk_bind_ok (line_quiet ?_ 18) _).trans ((blk_bind_ok e₁₈ _).trans ((blk_bind_ok e₁₉ _).trans
        ((blk_bind_ok (line_quiet ?_ 21) _).trans (returnRes_failed ?_))))))
    · exact q
    · rw [hv]; exact q
    · rw [hv]
  · rw [hv]
    simp [polled, withTries, heard, pollEvents, xchgEvents, stopToken, filler, Nat.add_assoc, hc]

theorem wrnTransfer_fails (q : Quiet t) (hr : t.reqOld = []) (hb : ∀ b ∈ bs, b.Good t) (h : WrnFails t bs.length n last c w)
    (ha : ReadsAdmitted t t.lBuf.toNat (512 * n)) (hc : t.card = ((bs ++ last).map BlockOut.bytes).flatten ++ (a₁ :: a₂ :: (w ++ rest))) :
    ∃ v, wrnTransfer n t = .error (.raised c) v ∧ v = { t with
      seq := v.seq, sector := v.sector, byteIdx := v.byteIdx, tries := t.cfg.idleWaitTries - w.length, res := .failed c,
      lastDresp := blocksDresp t.lastDresp (bs ++ last), card := rest,
      xchgs := t.xchgs + (((bs ++ last).map BlockOut.bytes).flatten.length + 2 + w.length),
      trace := (sectorsOutEvents t.cfg.bufAddrWidth t.mem t.lBuf.toNat (bs ++ last) ++ [Event.xchg 0xFD#8 a₁, Event.xchg 0xFF#8 a₂] ++
        pollEvents w).reverse ++ t.trace } := by
  obtain ⟨hloop, hclose⟩ : ((∃ b, last = [b] ∧ bs.length < n ∧ EndsLoop t b c) ∨ last = [] ∧ bs.length = n) ∧
      ∀ u : State, u.cfg = t.cfg → u.res = (if last = [] then .ok else .failed c) → ClosesWith u w c := by
    obtain ⟨b, rfl, hlt, hl, hcrc, hcause, hw⟩ | ⟨rfl, hn, rfl, hw⟩ := h
    · exact ⟨.inl ⟨b, rfl, hlt, hl, hcrc, hcause⟩, fun u hcfg hres => .inl ⟨hres, by simpa only [IdleReply, hcfg] using hw⟩⟩
    · exact ⟨.inr ⟨rfl, hn⟩, fun u hcfg hres => .inr ⟨hres, rfl, by rw [hcfg]; exact hw⟩⟩
  obtain ⟨u, e, hu⟩ := wrnLoop_fails (s := { t with seq := .body 11 1, res := .ok }) q hr hb hloop ha hc
  obtain ⟨v, e', hv⟩ := wrnClose_raises (t := u) (w := w) (c := c) (a₁ := a₁) (a₂ := a₂) (rest := rest) (by rw [hu]; exact q)
    (hclose u (by rw [hu]) (by rw [hu])) (by rw [hu])
  refine ⟨v, ?_, ?_⟩
  · exact (blk_bind_ok (line_quiet q 11) _).trans ((blk_bind_ok (setRes_apply .ok _) _).trans ((blk_bind_ok e _).trans e'))
  · rw [hv, hu]
    simp [Nat.add_assoc]

theorem WrnFails.outcome {k : Nat} (h : WrnFails s k n last c w) : c.outcome = .fail := by
  obtain ⟨-, -, -, -, -, ⟨rfl, -⟩ | ⟨rfl, -⟩, -⟩ | ⟨-, -, rfl, -⟩ := h <;> rfl

/-- Settles O31: the opening and the gap pass, and the transfer raises the cause its loop or its close has kept in RES. -/
theorem wrnFailureCloses : Obligations.WrnFailureCloses := by
  intro s w gap w₂ cs bs last cause a₁ a₂ trail rest q hr ha hw hcs hg hb hfail hcard
  have hp := wrnOpening_passed hw hcs hg
  have hpre : preCheck 0x7#4 s = none := preCheck_ready (by decide) (by decide) hr.2 fun h => absurd h (by decide)
  have hc : s.card = partsBytes (wrnOpening s w gap cs) ++
      (((bs ++ last).map BlockOut.bytes).flatten ++ (a₁ :: a₂ :: (w₂ ++ trail :: rest))) := by
    rw [hcard, wrnOpening_bytes w gap hcs]
    simp
  obtain ⟨tail, hopen, hreach⟩ := bodyWrn_reaches s
  obtain ⟨u, hrun, l, hu⟩ := exec_comesTo (i := .wrn) rfl ⟨tail, hopen, hreach.comesTo⟩ q hr.1 hpre hp hc
  have hu : Loose u (playedState 0x7#4 s _) := hu.loose.trans ((runs_loose _ _ _ hp.length_eq).trans
    (runs_playedState (i := .wrn) hp (by simp [loopPhases])).loose)
  obtain ⟨v, e, hv⟩ := wrnTransfer_fails l.quiet l.reqOld (t := u) (bs := bs) (last := last) (c := cause) (a₁ := a₁) (a₂ := a₂)
    (w := w₂) (rest := trail :: rest) (fun b hm => by simpa only [BlockOut.Good, WrittenReply, l.cfg] using hb b hm)
    (by simpa only [WrnFails, IdleReply, l.cfg] using hfail) (l.readsAdmitted (off := 0) ha) (by rw [hu]; exact playedState_card 0x7#4 hc)
  have hend := hrun.trans (congrArg _ ((run_raised e).trans (finishRun_selected (by rw [hv]; exact l.quiet) (by rw [hv, hu]; rfl) _
    (show v.card = trail :: rest by rw [hv]))))
  have hcsd : u.csdShadow = s.csdShadow := (congrArg State.csdShadow hv).symm.trans
    (exec_csdShadow (t := complete _ (released v trail)) rfl (by decide) q hend)
  refine ⟨_, hend, ?_⟩
  rw [hfail.outcome, hv, hu]
  simp only [complete, released, loose, near, playedState, hcsd, wrnOpening_bytes w gap hcs]
  simp [wrnOpening, Part.lastR1, hcs.lastR1, commandParts_lastDresp, Part.lastDresp, partsStore, commandParts_store, Part.store, partsEvents,
    Part.events, commandParts_events, latch, releaseEvents, blocksDresp, Nat.add_assoc] <;> rfl

end Sys2Proof.Machine
end

section
/-! SUPPORT. INIT up to its select, whatever the card answers (45_init_fsm.md R142); and that events once made stay. -/
namespace Sys2Proof.Machine
variable {s t u : State} {L : List Label} {evs evs' : List Event}

/-! ### Events stay -/

theorem Emits.trans (h : Emits s t evs) (h' : Emits t u evs') : Emits s u (evs ++ evs') := by
  rw [Emits, h', h, List.reverse_append, List.append_assoc]

/-- Every move adds events, or none. -/
theorem Move.emits {l : Label} (h : Move l s t) : ∃ evs, Emits s t evs := by
  by_cases hl : l ∈ heldMoves
  · obtain ⟨⟨evs, he, -⟩, -⟩ := h.held hl
    exact ⟨evs, he⟩
  · cases l
    case select => exact ⟨[.select], by rw [show t = _ from h]; rfl⟩
    case deselect => exact ⟨[.deselect], by rw [show t = _ from h]; rfl⟩
    case reset =>
      obtain ⟨i, rfl⟩ := h
      refine ⟨if s.cs then [.deselect] else [], ?_⟩
      cases hcs : s.cs <;> simp [Emits, hcs]
    all_goals exact absurd (by decide) hl

theorem Path.emits (h : Path L s t) : ∃ evs, Emits s t evs := by
  induction h with
  | refl => exact ⟨[], rfl⟩
  | step l hl m _ ih =>
    obtain ⟨evs, he⟩ := m.emits
    obtain ⟨evs', he'⟩ := ih
    exact ⟨evs ++ evs', he.trans he'⟩

/-- A run adds events to those before it. -/
theorem run_emits {body : Blk Unit} (h : Walks L body) (he : epilogueMoves ⊆ L) (s : State) : ∃ evs, Emits s (run body s) evs := by
  obtain ⟨u, p, e | ⟨o, e⟩⟩ := run_path h he s
  · exact e ▸ p.emits
  · exact e ▸ p.emits

/-! ### The ramp -/

/-- Fillers, whatever the card answers. -/
theorem fillers_any : ∀ (n : Nat) {s : State}, Quiet s →
    ∃ ins u, fillers n s = .ok () u ∧ Quiet u ∧ ins.length = n ∧ Emits s u (pollEvents ins)
  | 0, s, q => ⟨[], s, rfl, q, rfl, rfl⟩
  | n + 1, s, q => by
    obtain ⟨ins, u, e, qu, hl, he⟩ := fillers_any n
      (s := { s with card := s.card.tail, trace := .xchg filler (cardAnswer s) :: s.trace, xchgs := s.xchgs + 1 }) q
    exact ⟨cardAnswer s :: ins, u, (blk_bind_ok (xchg_any q filler) _).trans e, qu, congrArg (· + 1) hl,
      Emits.trans (evs := [.xchg filler (cardAnswer s)]) rfl he⟩

/-- INIT from the select on (R142). -/
def initCard : Blk Unit := do
  classify
  initAt .ready 55 1
  setInitOk true
  initAt .ready 56 1

theorem initCard_moves (h : initMoves ⊆ L) : Walks L initCard :=
  (((initAt_moves h _ _ _).bind fun _ => Walks.get.bind fun _ => (initTries_moves h _).bind fun _ => spiIdleLoop_moves h _).bind fun _ =>
    (voltageCheck_moves h).bind fun _ => ((activate_moves h).bind fun _ => resolveFamily_moves h).bind fun _ => fixBlockLen_moves h).bind fun _ =>
  (initAt_moves h _ _ _).bind fun _ => (setInitOk_moves (h (by decide)) _).bind fun _ => initAt_moves h _ _ _

/-- INIT up to its select, whatever the card answers (R142). -/
theorem bodyInit_ramps (q : Quiet s) : ∃ ins u, bodyInit s = initCard u ∧ ins.length = s.cfg.rampUpBytes ∧
    Emits s u (pollEvents ins ++ selectEvents) := by
  obtain ⟨ins, u, e, qu, hl, he⟩ := fillers_any s.cfg.rampUpBytes (s := { s with family := .none, initOk := false, seq := .init .rampUp 3 1 }) q
  refine ⟨ins, { u with seq := .init .spiIdle 5 1, cs := true, trace := .select :: u.trace }, ?_, hl, Emits.trans (t := u) he rfl⟩
  rw [bodyInit_classify]
  refine (blk_bind_ok (initAt_quiet q _ _ _) _).trans ?_
  refine (blk_bind_ok (initAt_quiet (s := { s with family := .none, initOk := false, seq := .init .rampUp 1 2 }) q .rampUp 3 1) _).trans ?_
  refine (blk_bind_ok (blk_get _) _).trans ((blk_bind_ok e _).trans ?_)
  exact (blk_bind_ok (initAt_quiet qu _ _ _) _).trans (blk_bind_ok (select_quiet (s := { u with seq := .init .spiIdle 5 1 }) qu) _)

/-- Settles O23: the fillers and the select are the body's first events, and the run only adds to them. -/
theorem initRampsUp : Obligations.InitRampsUp := by
  intro s q hb
  obtain ⟨ins, u, e, hl, he⟩ := bodyInit_ramps (s := started 0x2#4 s) q
  obtain ⟨evs, he'⟩ := run_emits (L := initMoves ++ epilogueMoves) (initCard_moves (List.subset_append_left _ _)) (List.subset_append_right _ _) u
  exact ⟨_, ins, evs, congrArg Host.Outcome.next ((start_runs hb bodyInit (preCheck_always (.inr (.inl rfl)) _)).trans (run_congr e)), hl,
    he.trans he'⟩

end Sys2Proof.Machine
end

section
/-! SUPPORT. The command rows where no poll is answered, and whatever the card answers (40_command_engine.md R102 to R107). -/
namespace Sys2Proof.Machine
variable {s t u : State} {α β : Type}

/-! ### Exhausted polls -/

/-- Bit 7 set says that no response is present (R77). -/
theorem responsePresent_eq_false {b : Byte} (h : b.getLsbD 7 = true) : responsePresent b = false := by
  rw [responsePresent, BitVec.msb_eq_getLsbD_last, h]
  rfl

/-- Settles O44: a command row is SendCommand, run alone, and its polls are exhausted. -/
theorem commandRowsExhaust : Obligations.CommandRowsExhaust := by
  intro s i idx last arg crc junk polls rest hi q hj hp hb hlast hc
  have hl : polls.getLastD filler = last := by rw [List.getLastD_eq_getLast?, hlast, Option.getD_some]
  rw [exec_command hi, alone_ok (sendCommand_exhausted q hj hp (fun b h => responsePresent_eq_false (hb b h)) hc), hl]
  simp [answered, heard, commandEvents, hc, ← hj, hp]

/-! ### The frame of a command -/

/-- From `s` to `t` some of the card's bytes were exchanged, and LAST_R1, the try counter and the trace alone may differ besides. -/
def Commanded (s t : State) : Prop := ∃ n, t = { s with
  lastR1 := t.lastR1, tries := t.tries, card := s.card.drop n, xchgs := s.xchgs + n, trace := t.trace }

theorem Commanded.refl (s : State) : Commanded s s := ⟨0, rfl⟩

theorem Commanded.trans (h : Commanded s t) (k : Commanded t u) : Commanded s u := by
  obtain ⟨n, h⟩ := h
  obtain ⟨m, k⟩ := k
  refine ⟨n + m, ?_⟩
  rw [k, h]
  simp [Nat.add_assoc]

/-- Nothing arrives meanwhile. -/
theorem Commanded.quiet (h : Commanded s t) (q : Quiet s) : Quiet t := by
  obtain ⟨n, h⟩ := h
  rw [h]
  exact q

/-- While nothing arrives, the piece changes no more than a command does, whatever the card answers. -/
abbrev Commands (m : Blk α) : Prop := Steps (fun s t => Quiet s → Commanded s t) m

theorem commanded_chain : Chain fun s t => Quiet s → Commanded s t where
  refl s _ := .refl s
  trans _ _ _ h k q := (h q).trans (k ((h q).quiet q))

theorem Commands.pure (a : α) : Commands (pure a : Blk α) := Steps.pure commanded_chain a

theorem Commands.bind {m : Blk α} {f : α → Blk β} (hm : Commands m) (hf : ∀ a, Commands (f a)) : Commands (m >>= f) :=
  Steps.bind commanded_chain hm hf

theorem xchg_commands (o : Byte) : Commands (xchg o) := fun s q => by
  rw [alone_ok (xchg_any q o)]
  exact ⟨1, by rw [List.drop_one]⟩

theorem setTries_commands (n : Nat) : Commands (setTries n) := .modify fun _ _ => ⟨0, rfl⟩

theorem takeR1_commands (r : Byte) : Commands (takeR1 r) := .modify fun _ _ => ⟨0, rfl⟩

theorem sendBytes_commands : ∀ bs, Commands (sendBytes bs)
  | [] => .pure ()
  | b :: bs => (xchg_commands b).bind fun _ => sendBytes_commands bs

theorem stuffByte_commands (idx : Byte) : Commands (stuffByte idx) :=
  .ite ((xchg_commands filler).bind fun _ => .pure ()) (Commands.pure ())

theorem pollResponse_commands : ∀ n last, Commands (pollResponse n last)
  | 0, _ => .pure _
  | n + 1, _ => (xchg_commands filler).bind fun r => (setTries_commands n).bind fun _ => .ite (Commands.pure r) (pollResponse_commands n r)

theorem sendCommand_commands (idx : Byte) (arg : Word) (crc : Byte) : Commands (sendCommand idx arg crc) :=
  (sendBytes_commands _).bind fun _ => (stuffByte_commands idx).bind fun _ => Commands.bind (Steps.get commanded_chain) fun _ =>
    (setTries_commands _).bind fun _ => (pollResponse_commands _ _).bind fun r => (takeR1_commands r).bind fun _ => .pure r

/-- Settles O45: SendCommand changes no more than a command does. -/
theorem commandRowFrame : Obligations.CommandRowFrame := by
  rintro s i ⟨idx, arg, crc⟩ hi q
  obtain ⟨n, h⟩ := sendCommand_commands idx arg (crcOperand crc) s q
  refine ⟨_, exec_command hi s, ?_, ?_⟩ <;> rw [h]
  rw [Nat.add_sub_cancel_left]

end Sys2Proof.Machine
end

section
/-! SUPPORT. Any phase of a data operation that fails (43_block_transfer.md R170 to R176, 44_register_ops.md R200, R203; 60_exceptions.md R221,
R224). -/
namespace Sys2Proof.Machine
variable {s : State} {ps : List Part} {phs xs : List Phase} {i : Instr} {op : BitVec 4} {rest : List Byte}

/-- Phases that pass, and then one that fails. -/
theorem Failing.of_passes {pre post : List Phase} {ph : Phase} {p : Part} (ha : ∀ x ∈ pre, x.Admitted s)
    (hp : List.Forall₂ (fun x y => x.Passes s y) pre ps) (hf : ph.Fails s p) :
    Failing s (pre ++ ph :: post) (ps ++ [p]) (pre ++ [ph.cut s.cfg]) := by
  induction hp with
  | nil => exact .here hf
  | cons h _ ih => exact .later ⟨ha _ (by simp), h⟩ (ih fun x hx => ha x (by simp [hx]))

/-- What an operation leaves one of whose phases fails, CSD_SHADOW apart (R221, R224). -/
theorem exec_failsUpToCsd (h : i.opCode? = some op) (q : Quiet s) (hbusy : s.busy = false) (hpre : preCheck op s = none)
    (hf : Failing s (phases s i) ps xs) {trail : Byte} (hc : s.card = partsBytes ps ++ trail :: rest) : ∃ t, exec i s = .next t ∧
      t = complete .fail { passedState op s xs ps ((partsBytes ps).length + 1) trail rest with csdShadow := t.csdShadow } := by
  obtain ⟨-, -, u, -, -, hu, hrun⟩ := exec_raises h q hbusy hpre hf hc
  refine ⟨_, hrun, ?_⟩
  have hl := runs_loose xs (chosen (started op s)) ps hf.length_eq
  rw [plays_eq hf.oneWay] at hl
  obtain ⟨htries, hidx⟩ := runs_counters xs (t := chosen (started op s)) (u := latch op s) ps rfl rfl rfl
  obtain ⟨hsector, hres⟩ := runs_keep xs (chosen (started op s)) ps
  rw [hu, hl]
  simp only [complete, released, passedState, near, loose, htries, hidx, hsector, hres]
  simp [hc, partsStore, partsEvents, selectEvents, chosen, started, latch, releaseEvents, Nat.add_assoc]

/-- Settles O41: the phases before pass, and the one that fails ends the body; no operation but INFO writes CSD_SHADOW. -/
theorem firstFailureEnds : Obligations.FirstFailureEnds := by
  intro s i op pre post ph ps p trail rest hop hpre hbusy q hphs hadm hpass hfail hcard
  have hf : Failing s (phases s i) (ps ++ [p]) (pre ++ [ph.cut s.cfg]) := hphs ▸ .of_passes hadm hpass hfail
  obtain ⟨t, hrun, ht⟩ := exec_failsUpToCsd hop q hbusy hpre hf hcard
  refine ⟨t, hrun, fun hi => exec_csdShadow hop hi q hrun, ?_⟩
  rw [ht]
  rfl

end Sys2Proof.Machine
end

section
/-! SUPPORT. RDN where its transfer fails (43_block_transfer.md R173): the loop ends, and the stop command follows whatever it ended by. -/
namespace Sys2Proof.Machine
variable {s t u : State} {k n : Nat} {bs : List BlockIn} {c : Cause} {r : Byte} {l c₁₂ rest : List Byte}

/-! ### The loop -/

/-- A sector before which no 0xFE comes ends the loop (R122, R173). -/
theorem rdnLoop_noStart (q : Quiet s) (h : NoStartToken s l) (hc : s.card = l ++ rest) :
    rdnLoop k (n + 1) s = .ok () { polled { s with sector := k } s.cfg.tokenWaitTries l with seq := .body 10 1, res := .failed .tokenFail } := by
  obtain ⟨tok, hn, ht⟩ | ⟨hn, hx⟩ := h
  · exact rdnLoop_wrongToken q ht hn hc
  · exact rdnLoop_noToken q hn (fun x hm => by rw [hx x hm]; rfl) hc

/-- The loop of an RDN that fails after `bs` received sectors: it ends at the next one, or every sector is received (R173). -/
theorem rdnLoop_fails (q : Quiet s) (hr : s.reqOld = []) (hb : ∀ b ∈ bs, b.Good s 512) (h : RdnFails s bs.length n l r c)
    (ha : WritesAdmitted s s.lBuf.toNat (512 * n)) (hc : s.card = (bs.map BlockIn.bytes).flatten ++ (l ++ rest)) :
    ∃ u, rdnLoop 0 n s = .ok () u ∧ u = { s with
      seq := u.seq, sector := u.sector, byteIdx := u.byteIdx, tries := u.tries, blkOld := u.blkOld,
      res := if c = .tokenFail then .failed c else s.res,
      mem := sectorsStored s.cfg.bufAddrWidth s.lBuf.toNat bs s.mem, card := rest,
      xchgs := s.xchgs + ((bs.map BlockIn.bytes).flatten.length + l.length),
      trace := (sectorsInEvents s.cfg.bufAddrWidth s.lBuf.toNat bs ++ pollEvents l).reverse ++ s.trace } := by
  obtain ⟨rfl, hlt, hl⟩ | ⟨rfl, rfl, rfl, -⟩ := h
  · obtain ⟨m, rfl⟩ : ∃ m, n = bs.length + (m + 1) := ⟨n - bs.length - 1, by omega⟩
    obtain ⟨t, e, ht⟩ := rdnLoop_quiet (k := 0) q hr hc hb (fun i hi => ha i (by omega)) (m + 1)
    have e' := rdnLoop_noStart (s := t) (k := 0 + bs.length) (n := m) (l := l) (rest := rest) (by rw [ht]; exact q) (by rw [ht]; exact hl)
      (by rw [ht])
    refine ⟨_, e.trans e', ?_⟩
    rw [ht]
    simp [polled, withTries, heard, pollEvents, Nat.add_assoc]
  · obtain ⟨t, e, ht⟩ := rdnLoop_quiet (k := 0) q hr hc hb ha 0
    refine ⟨_, e.trans (line_quiet (by rw [ht]; exact q) 7), ?_⟩
    rw [ht]
    simp [pollEvents, xchgEvents]

/-! ### The close -/

/-- RES and the response to the stop command together give this cause: an earlier one is kept, whatever the response; else the stop
command is rejected (R173). -/
def StopsWith (s : State) (r : Byte) (c : Cause) : Prop := s.res = .failed c ∨ s.res = .ok ∧ c = .stopRejected ∧ r ≠ 0x00#8

/-- What the loop has left in RES gives the cause with the response (R173). -/
theorem RdnFails.stopsWith (h : RdnFails s k n l r c) (hres : u.res = if c = .tokenFail then .failed c else .ok) : StopsWith u r c := by
  obtain ⟨rfl, -⟩ | ⟨rfl, -, -, hne⟩ := h
  · exact .inl hres
  · exact .inr ⟨hres, rfl, hne⟩

/-- The test of the stop command's response leaves the cause in RES (R173). -/
theorem checkStop_keeps (q : Quiet t) (h : StopsWith t r c) : ∃ v, checkStop r t = .ok () v ∧ v = { t with seq := v.seq, res := .failed c } := by
  obtain hres | ⟨hres, rfl, hr⟩ := h
  · refine ⟨{ t with seq := .body 12 1 }, ?_, by rw [← hres]⟩
    rw [checkStop, blk_bind_ok (line_quiet q 12), blk_bind_ok (blk_get _), if_neg (by simp [hres])]
    rfl
  · refine ⟨{ t with seq := .body 12 2, res := .failed .stopRejected }, ?_, rfl⟩
    rw [checkStop, blk_bind_ok (line_quiet q 12), blk_bind_ok (blk_get _), if_pos ⟨hres, accepted_eq_false hr⟩]
    exact blk_bind_ok (part_quiet (s := { t with seq := .body 12 1 }) q 12 2) _

/-- The close of RDN, whatever its loop ended by (R173): the stop command, and the cause is raised. -/
def rdnClose : Blk Unit := do
  line 11
  let r ← sendCommand 12#8 0x00000000#32 0x00#8
  checkStop r
  line 13
  returnRes

theorem rdnClose_raises (q : Quiet t) (h : StopsWith t r c) (h₁₂ : CommandReply t 12#8 r c₁₂) (hc : t.card = c₁₂ ++ rest) : ∃ v,
    rdnClose t = .error (.raised c) v ∧ v = { t with
      seq := v.seq, tries := v.tries, lastR1 := r, res := .failed c, card := rest, xchgs := t.xchgs + c₁₂.length,
      trace := (commandEvents 12#8 0x00000000#32 0x00#8 c₁₂).reverse ++ t.trace } := by
  have e₁₁ := sendCommand_quiet (s := { t with seq := .body 11 1 }) q (arg := 0x00000000#32) (crc := 0x00#8) h₁₂ hc
  obtain ⟨v, e₁₂, hv⟩ := checkStop_keeps (t := answered { t with seq := .body 11 1 } 12#8 0x00000000#32 0x00#8 r c₁₂) (r := r) (c := c) q h
  refine ⟨{ v with seq := .body 13 1 }, ?_, ?_⟩
  · refine (blk_bind_ok (line_quiet q 11) _).trans ((blk_bind_ok e₁₁ _).trans ((blk_bind_ok e₁₂ _).trans
      ((blk_bind_ok (line_quiet ?_ 13) _).trans (returnRes_failed ?_))))
    · rw [hv]; exact q
    · rw [hv]
  · rw [hv]
    simp [answered, heard, commandEvents, hc]

theorem rdnTransfer_fails (q : Quiet t) (hr : t.reqOld = []) (hb : ∀ b ∈ bs, b.Good t 512) (h : RdnFails t bs.length n l r c)
    (ha : WritesAdmitted t t.lBuf.toNat (512 * n)) (h₁₂ : CommandReply t 12#8 r c₁₂)
    (hc : t.card = (bs.map BlockIn.bytes).flatten ++ (l ++ (c₁₂ ++ rest))) : ∃ v, rdnTransfer n t = .error (.raised c) v ∧ v = { t with
      seq := v.seq, sector := v.sector, byteIdx := v.byteIdx, tries := v.tries, blkOld := v.blkOld, res := .failed c, lastR1 := r,
      mem := sectorsStored t.cfg.bufAddrWidth t.lBuf.toNat bs t.mem, card := rest,
      xchgs := t.xchgs + ((bs.map BlockIn.bytes).flatten.length + l.length + c₁₂.length),
      trace := (sectorsInEvents t.cfg.bufAddrWidth t.lBuf.toNat bs ++ pollEvents l ++
        commandEvents 12#8 0x00000000#32 0x00#8 c₁₂).reverse ++ t.trace } := by
  obtain ⟨u, e, hu⟩ := rdnLoop_fails (s := { t with seq := .body 6 1, res := .ok }) (rest := c₁₂ ++ rest) q hr hb h ha hc
  obtain ⟨v, e', hv⟩ := rdnClose_raises (t := u) (c₁₂ := c₁₂) (rest := rest) (by rw [hu]; exact q) (h.stopsWith (by rw [hu]))
    (by rw [hu]; exact h₁₂) (by rw [hu])
  refine ⟨v, ?_, ?_⟩
  · exact (blk_bind_ok (line_quiet q 6) _).trans ((blk_bind_ok (setRes_apply .ok _) _).trans ((blk_bind_ok e _).trans e'))
  · rw [hv, hu]
    simp [Nat.add_assoc]

theorem RdnFails.outcome (h : RdnFails s k n l r c) : c.outcome = .fail := by
  obtain ⟨rfl, -⟩ | ⟨rfl, -⟩ := h <;> rfl

/-- Settles O27: the opening passes, and the transfer raises the cause its loop or its close has kept in RES. -/
theorem rdnFailureCloses : Obligations.RdnFailureCloses := by
  intro s w c₁₂ c₁₈ l bs cause r trail rest q hr ha hw h₁₈ hb hfail h₁₂ hcard
  have hp : Passed s (phases s .rdn) [.polls w, .command 18#8 (adjust s.family s.arg0) 0x00#8 c₁₈] :=
    .cons ⟨trivial, w, rfl, hw⟩ (.cons ⟨trivial, c₁₈, rfl, h₁₈⟩ .nil)
  have hpre : preCheck 0x5#4 s = none := preCheck_ready (by decide) (by decide) hr.2 fun h => absurd h (by decide)
  have hc : s.card = partsBytes [.polls w, .command 18#8 (adjust s.family s.arg0) 0x00#8 c₁₈] ++
      ((bs.map BlockIn.bytes).flatten ++ (l ++ (c₁₂ ++ trail :: rest))) := by simp [hcard, partsBytes, Part.bytes]
  obtain ⟨tail, hopen, hreach⟩ := bodyRdn_reaches s
  obtain ⟨u, hrun, lu, hu⟩ := exec_comesTo (i := .rdn) rfl ⟨tail, hopen, hreach.comesTo⟩ q hr.1 hpre hp hc
  have hu : Loose u (playedState 0x5#4 s _) := hu.loose.trans ((runs_loose _ _ _ hp.length_eq).trans (runs_playedState (i := .rdn) hp (by simp)).loose)
  obtain ⟨v, e, hv⟩ := rdnTransfer_fails lu.quiet lu.reqOld (t := u) (bs := bs) (l := l) (c := cause) (r := r) (c₁₂ := c₁₂) (rest := trail :: rest)
    (fun b hm => by simpa only [BlockIn.Good, TokenReply, lu.cfg] using hb b hm)
    (by simpa only [RdnFails, NoStartToken, TokenReply, lu.cfg] using hfail) (lu.writesAdmitted (off := 0) ha)
    (by simpa only [CommandReply, lu.cfg] using h₁₂) (by rw [hu]; exact playedState_card 0x5#4 hc)
  have hend := hrun.trans (congrArg _ ((run_raised e).trans (finishRun_selected (by rw [hv]; exact lu.quiet) (by rw [hv, hu]; rfl) _
    (show v.card = trail :: rest by rw [hv]))))
  have hcsd : u.csdShadow = s.csdShadow := (congrArg State.csdShadow hv).symm.trans
    (exec_csdShadow (t := complete _ (released v trail)) rfl (by decide) q hend)
  refine ⟨_, hend, ?_⟩
  rw [hfail.outcome, hv, hu]
  simp only [complete, released, loose, near, playedState, hcsd]
  simp [partsBytes, Part.bytes, Part.lastDresp, partsStore, Part.store, partsEvents, Part.events, latch, releaseEvents, Nat.add_assoc]

end Sys2Proof.Machine
end

section
/-! SUPPORT. The operations whose body makes no event, DETECT and DEINIT (42_initialization.md R140, R143). -/
namespace Sys2Proof.Machine

/-- A start the pre-check admits, whose body passes and leaves the bus unselected, completes OK without Release (R9, R222, R224). -/
theorem start_unselected {op : BitVec 4} {body : Blk Unit} {s u : State} (hb : s.busy = false)
    (hpre : preCheck op (latch op s) = none) (e : body (started op s) = .ok () u) (q : Quiet u) (hcs : u.cs = false) :
    start op body s = complete .ok u :=
  calc start op body s = run body (started op s) := start_runs hb body hpre
    _ = finishRun .ok u := run_ok e
    _ = complete .ok u := finishRun_unselected q hcs .ok

/-- Pin() gives the next listed level, or a free one, and consumes it (R230, log 2). -/
theorem pin_apply (s : State) : pin s = .ok (s.pins.headD (Config.pinLevel s.pinReads))
    { s with pins := s.pins.tail, pinReads := s.pinReads + 1 } := by
  unfold pin
  cases s.pins <;> rfl

theorem bodyDetect_quiet {s : State} (q : Quiet s) : bodyDetect s = .ok () { s with
    present := s.pins.headD (Config.pinLevel s.pinReads) == s.cfg.cdActiveLevel, pins := s.pins.tail, pinReads := s.pinReads + 1,
    seq := .body 2 1 } := by
  rw [bodyDetect, blk_bind_ok (line_quiet q 1), blk_bind_ok (pin_apply _), blk_bind, blk_modify]
  exact line_quiet (by exact q) 2

theorem bodyDeinit_quiet {s : State} (q : Quiet s) : bodyDeinit s = .ok () { s with initOk := false, seq := .body 2 1 } := by
  rw [bodyDeinit, blk_bind_ok (line_quiet q 1), setInitOk, blk_bind, blk_modify]
  exact line_quiet (by exact q) 2

/-- Settles O18: the body samples the pin once, and no bus is to release. -/
theorem detectSamples : Obligations.DetectSamples := by
  intro s q hb hcs
  have ends := start_unselected (op := 0x1#4) hb (preCheck_always (.inl rfl) _) (bodyDetect_quiet (s := started 0x1#4 s) q) q hcs
  exact congrArg Host.Outcome.next ends

/-- Settles O19: the body clears INIT_OK, and no bus is to release. -/
theorem deinitClears : Obligations.DeinitClears := by
  intro s q hb hcs
  have ends := start_unselected (op := 0x3#4) hb (preCheck_always (.inr (.inr rfl)) _) (bodyDeinit_quiet (s := started 0x3#4 s) q) q hcs
  exact congrArg Host.Outcome.next ends

end Sys2Proof.Machine
end

section
/-! SUPPORT. ERASE and STAT on an MMC, which the family test of the pre-check ends (60_exceptions.md R223). -/
namespace Sys2Proof.Machine

/-- Settles O16: the family test comes before the INIT_OK test, and names ERASE and STAT only. -/
theorem illegalOnMmc : Obligations.IllegalOnMmc := by
  intro s hb hf
  have refused : ∀ {op : BitVec 4} (body : Blk Unit), op.toNat = 0x8 ∨ op.toNat = 0xA →
      start op body s = complete .illegal (latch op s) :=
    fun body ho => start_refused hb body (preCheck_mmc ho hf)
  refine ⟨?erase, ?stat, ?info⟩
  case erase => exact congrArg Host.Outcome.next (refused bodyErase (by decide))
  case stat => exact congrArg Host.Outcome.next (refused bodyStat (by decide))
  case info => exact fun hi => preCheck_ready (by decide) (by decide) hi fun h => absurd h (by decide)

end Sys2Proof.Machine
end

section
/-! SUPPORT. The fields of the CSD that the capacity is derived from, as numbers, and the capacity (44_register_ops.md R201). -/
namespace Sys2Proof.Machine

/-- A field put together from two: the first above the second. -/
theorem toNat_append_add {m n : Nat} (x : BitVec m) (y : BitVec n) : (x ++ y).toNat = x.toNat * 2 ^ n + y.toNat := by
  rw [BitVec.toNat_append, ← Nat.shiftLeft_add_eq_or_of_lt y.isLt, Nat.shiftLeft_eq]

/-! ### The fields -/

theorem csdStructure_eq_one (csd : Vector Byte 16) : csdStructure csd = 1#2 ↔ csd[0].toNat / 64 = 1 := by
  have hv : (csdStructure csd).toNat = csd[0].toNat / 64 % 4 := by
    rw [csdStructure, BitVec.extractLsb'_toNat, Nat.shiftRight_eq_div_pow]
  have hb : csd[0].toNat < 256 := csd[0].isLt
  rw [← BitVec.toNat_inj, hv, BitVec.toNat_ofNat]
  omega

theorem csdReadBlLen_toNat (csd : Vector Byte 16) : (csdReadBlLen csd).toNat = csd[5].toNat % 16 := by
  rw [csdReadBlLen, BitVec.extractLsb'_toNat, Nat.shiftRight_zero]

theorem csdCSizeV2_toNat (csd : Vector Byte 16) :
    (csdCSizeV2 csd).toNat = (csd[7].toNat % 64) * 65536 + csd[8].toNat * 256 + csd[9].toNat := by
  calc (csdCSizeV2 csd).toNat
      = ((csd[7].extractLsb' 0 6).toNat * 2 ^ 8 + csd[8].toNat) * 2 ^ 8 + csd[9].toNat := by
        rw [← toNat_append_add, ← toNat_append_add, csdCSizeV2]
    _ = _ := by rw [BitVec.extractLsb'_toNat, Nat.shiftRight_zero]; omega

theorem csdCSizeV1_toNat (csd : Vector Byte 16) :
    (csdCSizeV1 csd).toNat = (csd[6].toNat % 4) * 1024 + csd[7].toNat * 4 + csd[8].toNat / 64 := by
  have hb : csd[8].toNat < 256 := csd[8].isLt
  calc (csdCSizeV1 csd).toNat
      = ((csd[6].extractLsb' 0 2).toNat * 2 ^ 8 + csd[7].toNat) * 2 ^ 2 + (csd[8].extractLsb' 6 2).toNat := by
        rw [← toNat_append_add, ← toNat_append_add, csdCSizeV1]
    _ = _ := by
        rw [BitVec.extractLsb'_toNat, BitVec.extractLsb'_toNat, Nat.shiftRight_zero, Nat.shiftRight_eq_div_pow]; omega

theorem csdCSizeMult_toNat (csd : Vector Byte 16) :
    (csdCSizeMult csd).toNat = (csd[9].toNat % 4) * 2 + csd[10].toNat / 128 := by
  have hb : csd[10].toNat < 256 := csd[10].isLt
  calc (csdCSizeMult csd).toNat
      = (csd[9].extractLsb' 0 2).toNat * 2 ^ 1 + (csd[10].extractLsb' 7 1).toNat := by
        rw [← toNat_append_add, csdCSizeMult]
    _ = _ := by
        rw [BitVec.extractLsb'_toNat, BitVec.extractLsb'_toNat, Nat.shiftRight_zero, Nat.shiftRight_eq_div_pow]; omega

/-! ### The capacity -/

/-- CSD v2: the product wraps to 32 bits. -/
theorem capacityKB_v2 {csd : Vector Byte 16} (h : csdStructure csd = 1#2) :
    (capacityKB csd).toNat = ((csdCSizeV2 csd).toNat + 1) * 2 ^ (csdReadBlLen csd).toNat % 2 ^ 32 := by
  rw [capacityKB, if_pos h, BitVec.toNat_ofNat]

/-- CSD v1: the capacity is below 2^32 KB whatever the fields, so no wrap shows. -/
theorem capacityKB_v1 {csd : Vector Byte 16} (h : csdStructure csd ≠ 1#2) :
    (capacityKB csd).toNat =
      ((csdCSizeV1 csd).toNat + 1) * 2 ^ ((csdCSizeMult csd).toNat + 2) * 2 ^ (csdReadBlLen csd).toNat / 1024 := by
  have size : (csdCSizeV1 csd).toNat + 1 ≤ 2 ^ 12 := (csdCSizeV1 csd).isLt
  have mult : 2 ^ ((csdCSizeMult csd).toNat + 2) ≤ 2 ^ 9 := Nat.pow_le_pow_right (by decide) (by have := (csdCSizeMult csd).isLt; omega)
  have blLen : 2 ^ (csdReadBlLen csd).toNat ≤ 2 ^ 15 := Nat.pow_le_pow_right (by decide) (by have := (csdReadBlLen csd).isLt; omega)
  have bytes := Nat.mul_le_mul (Nat.mul_le_mul size mult) blLen
  rw [capacityKB, if_neg h, BitVec.toNat_ofNat]
  exact Nat.mod_eq_of_lt (by omega)

/-- Settles O36: each field as a number, then the formula of the CSD's version. -/
theorem capacityFormula : Obligations.CapacityFormula := by
  intro csd
  refine ⟨fun h => ?v2, fun h => ?v1⟩
  case v2 => rw [capacityKB_v2 ((csdStructure_eq_one csd).2 h), csdCSizeV2_toNat, csdReadBlLen_toNat]
  case v1 => rw [capacityKB_v1 (mt (csdStructure_eq_one csd).1 h), csdCSizeV1_toNat, csdCSizeMult_toNat, csdReadBlLen_toNat]

end Sys2Proof.Machine
end

section
/-! SUPPORT. The block size that INFO reports, whatever the card answers and whatever arrives, a reset too (44_register_ops.md R202). -/
namespace Sys2Proof.Machine

variable {L : List Label} {W : Nat → Prop}

/-- DONE = 0, as a start and a reset leave it (R222, R250). -/
def NotDone (t : State) : Prop := t.done = false

/-- BLKSIZE = 512. -/
def BlkSet (t : State) : Prop := t.blksize = 0x00000200#32

/-- Only a completion sets DONE. -/
theorem notDone_holds : Holds L W NotDone NotDone := unchanged_holds (fun _ _ u h => u.done.trans h) fun _ _ _ => rfl

theorem blkSet_holds (hL : .blksize ∉ L) : Holds L W BlkSet NotDone :=
  unchanged_holds (fun _ _ u h => (u.blksize (by simp [hL])).trans h) fun _ _ _ => rfl

/-- DONE = 0, with the buffer of a started INFO. -/
theorem notDone_buffer_holds (r : State) : Holds L W (fun t => t.lBuf = r.lBuf ∧ NotDone t) NotDone :=
  unchanged_holds (fun _ _ u h => ⟨u.lBuf.trans h.1, u.done.trans h.2⟩) fun _ _ _ => rfl

/-- INFO's last statements set BLKSIZE, or a reset abandons them. -/
theorem infoSets_blkSet {s : State} (hs : NotDone s) : Passes BlkSet NotDone infoSets s := by
  have moved : Holds [.seq] (fun _ => True) NotDone NotDone := notDone_holds
  have capkb : ∀ {t}, NotDone t → Passes NotDone NotDone setCapkb t := fun h => .inl ⟨_, _, rfl, h⟩
  have blksize : ∀ t, Passes BlkSet NotDone setBlksize t := fun t => .inl ⟨_, _, rfl, rfl⟩
  exact (at_passes moved (by decide) (.body 22 1) hs).bind fun _ _ ht => (capkb ht.1).bind fun _ _ hu =>
    (at_passes moved (by decide) (.body 23 1) hu).bind fun _ v _ => (blksize v).bind fun _ _ hw => by
      obtain ⟨a, x, e, hx, -⟩ | h := at_passes (blkSet_holds (L := [.seq]) (W := fun _ => True) (by decide)) (by decide) (.body 24 1) hw
      · exact .inl ⟨a, x, e, hx⟩
      · exact .inr h

/-- INFO's body ends with BLKSIZE set, or before its end with DONE = 0. -/
theorem bodyInfo_blkSet (r : State) (hr : NotDone r) : Leaves (labelsOf .info) BlkSet NotDone NotDone (bodyInfo r) := by
  have reads : Built (fun t => t.lBuf.toNat = r.lBuf.toNat) infoReadLabels (fun _ => True) (line 1 >>= fun _ => infoReads) :=
    (line_built (by decide) 1).bind fun _ =>
      infoReads_built (fun _ h => h) (by decide) (fun _ _ => trivial) fun _ _ _ _ _ _ => trivial
  have read := reads.leaves (notDone_buffer_holds r) (fun _ h => by rw [h.1]) r ⟨rfl, hr⟩
  rw [bodyInfo_eq, ← bind_assoc]
  exact (read.mono (by decide) (fun _ => And.right) (fun _ => And.right) fun _ => id).bind fun _ _ ht => (infoSets_blkSet ht).leaves

/-- So does the whole operation. -/
theorem exec_info_blkSet (s : State) : Ended 0x9#4 (labelsOf .info) BlkSet NotDone NotDone s (start 0x9#4 bodyInfo s) :=
  start_ended fun _ _ => run_ends (bodyInfo_blkSet (started 0x9#4 s) rfl) (blkSet_holds (W := fun _ => True) (by decide)).finishes
    (notDone_holds (W := fun _ => True)).finishes

/-- No cause has the outcome OK (R221). -/
theorem outcome_ne_ok (c : Cause) : c.outcome ≠ .ok := by
  cases c <;> decide

/-- Settles O38: every end of INFO but that of its last statement fails, or leaves DONE = 0. -/
theorem blockSizeIs512 : Obligations.BlockSizeIs512 := by
  intro s t hb ht hd ho
  obtain rfl : start 0x9#4 bodyInfo s = t := Host.Outcome.next.inj ht
  have ended := exec_info_blkSet s
  generalize start 0x9#4 bodyInfo s = t at ended hd ho
  cases ended with
  | ignored busy => exact absurd (hb.symm.trans busy) Bool.noConfusion
  | refused c _ _ => exact absurd ho (outcome_ne_ok c)
  | ran _ _ run =>
    cases run with
    | ok h _ => exact h
    | @failed c _ _ _ _ => exact absurd ho (outcome_ne_ok c)
    | stuck _ h | abandoned h => exact absurd (h.symm.trans hd) Bool.noConfusion

end Sys2Proof.Machine
end

section
/-! SUPPORT. A start while BUSY = 1 is ignored, as an instruction and as what arrives at a running statement (60_exceptions.md R227). -/
namespace Sys2Proof.Machine

/-- A CTRL write with START = 1 that is due while BUSY = 1 is dropped, and what comes after it is served from the same state (R227). -/
theorem serve_busyStart {s : State} (hb : s.busy = true) {a : Access} {w : Word} (hi : a.inInterface = true)
    (hr : a.request? = some w) (rest : List Arrival) : serve (⟨0, .access a⟩ :: rest) s = serve rest s := by
  simp [serve, hi, hr, hb]

/-- A write of CTRL with bit 31 set is a request (R21, R91). -/
theorem request?_ctrl (width : Nat) {w : Word} (h : w.msb = true) : (⟨0x00, width, some w⟩ : Access).request? = some w := by
  simp [Access.request?, h]

/-- Settles O14: every request is a start, which BUSY = 1 ends at once; and a due start is dropped before an empty queue. -/
theorem startWhileBusyIgnored : Obligations.StartWhileBusyIgnored := by
  refine ⟨fun s i op hop hb => ?instruction, fun s w hb hw => ?arrival⟩
  case instruction =>
    obtain ⟨body, he, -⟩ := exec_program hop
    rw [he, start_busy hb]
  case arrival => exact serve_busyStart hb (inInterface_word rfl _) (request?_ctrl 32 hw) []

end Sys2Proof.Machine
end

section
/-! SUPPORT. Where a reset can land in a piece of the sequencer's work when nothing else arrives (70_reset_and_hazards.md R251): before each
of its statements and events, and so once before each event it makes and, in a whole run, once after the last. -/
namespace Sys2Proof.Machine

variable {α β : Type} {F : State → Prop} {us vs : List State} {s t u w : State} {m : Blk α}

/-! ### The course of a run -/

/-- From `t` to the last state the sequencer passes the landing points `us`, each in a state of `F`, and makes at most one event after each
and none before the first. -/
inductive Course (F : State → Prop) : List State → State → State → Prop where
  | refl (t : State) : Course F [] t t
  | silent {us : List State} {t u w : State} (e : u.trace = t.trace) (c : Course F us u w) : Course F us t w
  | land {us : List State} {t u w : State} {evs : List Event} (h : F t) (e : Emits t u evs) (one : evs.length ≤ 1) (c : Course F us u w) :
      Course F (t :: us) t w

namespace Course

theorem trans (c : Course F us t u) (d : Course F vs u w) : Course F (us ++ vs) t w := by
  induction c with
  | refl => exact d
  | silent e _ ih => exact .silent e (ih d)
  | land h e one _ ih => exact .land h e one (ih d)

theorem emits (c : Course F us t u) : ∃ evs, Emits t u evs := by
  induction c with
  | refl => exact ⟨[], rfl⟩
  | silent e _ ih =>
    obtain ⟨evs, h⟩ := ih
    exact ⟨_, Emits.trans (evs := []) e h⟩
  | land _ e _ _ ih =>
    obtain ⟨evs, h⟩ := ih
    exact ⟨_, e.trans h⟩

/-- The events made before a landing point are the first of the run's. -/
theorem between (c : Course F us t u) (hw : w ∈ us) : F w ∧ (∃ evs, Emits t w evs) ∧ ∃ evs, Emits w u evs := by
  induction c with
  | refl => cases hw
  | silent e _ ih =>
    obtain ⟨hF, ⟨evs, h⟩, after⟩ := ih hw
    exact ⟨hF, ⟨_, Emits.trans (evs := []) e h⟩, after⟩
  | @land _ t _ _ _ hF e one c ih =>
    obtain rfl | hw := List.mem_cons.1 hw
    · exact ⟨hF, ⟨[], rfl⟩, (Course.land hF e one c).emits⟩
    · obtain ⟨hF, ⟨evs, h⟩, after⟩ := ih hw
      exact ⟨hF, ⟨_, e.trans h⟩, after⟩

/-- Before the landing point number `j` come at most `j` events. -/
theorem trace_le (c : Course F us t u) : ∀ {j : Nat}, us[j]? = some w → w.trace.length ≤ t.trace.length + j := by
  induction c with
  | refl => simp
  | silent e _ ih => exact fun h => e ▸ ih h
  | land _ e one _ ih =>
    intro j h
    have next := congrArg List.length e
    rw [List.length_append, List.length_reverse] at next
    cases j with
    | zero =>
      obtain rfl := Option.some.inj h
      exact Nat.le_refl _
    | succ j =>
      have := ih h
      omega

/-- Before each event comes a landing point. -/
theorem covers (c : Course F us t u) : ∀ {n : Nat}, t.trace.length ≤ n → n < u.trace.length → ∃ w ∈ us, w.trace.length = n := by
  induction c with
  | refl => omega
  | silent e _ ih => exact fun h => ih (e ▸ h)
  | @land _ t _ _ _ _ e one _ ih =>
    intro n h h'
    have next := congrArg List.length e
    rw [List.length_append, List.length_reverse] at next
    by_cases hn : n = t.trace.length
    · exact ⟨t, by simp, hn.symm⟩
    · obtain ⟨w, hw, e⟩ := ih (by omega) h'
      exact ⟨w, by simp [hw], e⟩

end Course

/-! ### Where the reset lands -/

/-- `t` with a reset still to come, `j` statements and events away. -/
def resetIn (j : Nat) (t : State) : State := redo id id id (fun _ => [⟨j, .reset⟩]) t

/-- The points of a piece run on `t` where a reset can land: due at one of them it abandons the piece there, due later it is still to come.
Where the piece is stuck, it has made no event since one of them. -/
structure Landings (F : State → Prop) (us : List State) (m : Blk α) (t : State) : Prop where
  abandons : ∀ {j u}, us[j]? = some u → m (resetIn j t) = .error .abandoned (resetBlock u)
  passes : ∀ j, m (resetIn (us.length + j) t) = moved (resetIn j) (m t)
  course : Course F us t (alone m t)
  stuck : ∀ {u}, m t = .error .stuck u → ∃ w ∈ us, w.trace = u.trace

theorem getElem?_append_cases {j : Nat} (h : (us ++ vs)[j]? = some w) : us[j]? = some w ∨ ∃ i, j = us.length + i ∧ vs[i]? = some w := by
  by_cases hj : j < us.length
  · exact .inl (by rwa [List.getElem?_append_left hj] at h)
  · refine .inr ⟨j - us.length, by omega, ?_⟩
    rwa [List.getElem?_append_right (by omega)] at h

/-- A piece after another adds its landing points to the other's. -/
theorem Landings.bind_ok {f : α → Blk β} {a : α} (h : Landings F us m t) (e : m t = .ok a u) (h' : Landings F vs (f a) u) :
    Landings F (us ++ vs) (m >>= f) t where
  abandons hj := by
    obtain hj | ⟨i, rfl, hi⟩ := getElem?_append_cases hj
    · exact blk_bind_error (h.abandons hj) f
    · exact (blk_bind_ok ((h.passes i).trans (by rw [e]; rfl)) f).trans (h'.abandons hi)
  passes j := by
    rw [List.length_append, Nat.add_assoc, blk_bind_ok ((h.passes _).trans (by rw [e]; rfl)) f, blk_bind_ok e f]
    exact h'.passes j
  course := by
    have c := h.course
    rw [alone_ok e] at c
    rw [show alone (m >>= f) t = alone (f a) u from alone_congr (blk_bind_ok e f)]
    exact c.trans h'.course
  stuck hs := by
    obtain ⟨w, hw, he⟩ := h'.stuck ((blk_bind_ok e f).symm.trans hs)
    exact ⟨w, by simp [hw], he⟩

theorem Landings.bind_error {f : α → Blk β} {x : Stop} (h : Landings F us m t) (e : m t = .error x u) : Landings F us (m >>= f) t where
  abandons hj := blk_bind_error (h.abandons hj) f
  passes j := by rw [blk_bind_error ((h.passes j).trans (by rw [e]; rfl)) f, blk_bind_error e f]; rfl
  course := by
    rw [alone_error (blk_bind_error e f), ← alone_error e]
    exact h.course
  stuck hs := by
    obtain ⟨rfl, rfl⟩ := EStateM.Result.error.inj ((blk_bind_error e f).symm.trans hs)
    exact h.stuck e

/-- A piece that neither hears what arrives nor makes an event has no landing point. -/
theorem Smooth.landings (h : Smooth m) (e : (alone m t).trace = t.trace) (hs : ∀ u, m t ≠ .error .stuck u) : Landings F [] m t where
  abandons hj := nomatch hj
  passes j := by rw [List.length_nil, Nat.zero_add]; exact h.redo _ _ _ _ t
  course := .silent e (.refl _)
  stuck hu := absurd hu (hs _)

/-- A due reset abandons the operation where it stands (R251). -/
theorem sync_landings (q : Quiet t) (ht : F t) : Landings F [t] sync t where
  abandons {j u} hj := by
    cases j with
    | succ j => nomatch hj
    | zero =>
      obtain rfl := Option.some.inj hj
      show EStateM.Result.error Stop.abandoned { resetBlock (resetIn 0 t) with inbox := [] } = _
      rw [← show (resetBlock t).inbox = [] from q]
      rfl
  passes j := by
    rw [sync_quiet q, List.length_singleton, Nat.add_comm]
    rfl
  course := by
    rw [alone_ok (sync_quiet q)]
    exact .land (evs := []) ht rfl (by simp) (.refl t)
  stuck hu := by rw [sync_quiet q] at hu; cases hu

/-- An event, or an access that is stuck: a reset can land before it. -/
theorem Smooth.landing {evs : List Event} (h : Smooth m) (q : Quiet t) (ht : F t) (e : Emits t (alone m t) evs) (one : evs.length ≤ 1)
    (hs : ∀ u, m t = .error .stuck u → u = t) : Landings F [t] (sync >>= fun _ => m) t where
  abandons hj := blk_bind_error ((sync_landings q ht).abandons hj) _
  passes j := by
    rw [blk_bind_ok (((sync_landings q ht).passes j).trans (by rw [sync_quiet q]; rfl)), blk_bind_ok (sync_quiet q)]
    exact h.redo _ _ _ _ t
  course := by
    rw [show alone (sync >>= fun _ => m) t = alone m t from alone_congr (blk_bind_ok (sync_quiet q) _)]
    exact .land ht e one (.refl _)
  stuck hu := ⟨t, by simp, by rw [hs _ ((blk_bind_ok (sync_quiet q) _).symm.trans hu)]⟩

/-- The state a reset leaves that lands before a statement is reset from that statement. -/
theorem at_landings (q : Quiet t) {p : Seq} {x : Unit} (e : at_ p t = .ok x u) (hu : F u) : Landings F [u] (at_ p) t := by
  obtain ⟨-, rfl⟩ := EStateM.Result.ok.inj ((at_quiet q p).symm.trans e)
  have move : Smooth (moveSeq p) := modify_smooth fun _ _ _ _ _ => rfl
  exact (move.landings (t := t) rfl fun _ h => nomatch h).bind_ok (a := PUnit.unit) rfl (sync_landings (t := { t with seq := p }) q hu)

variable {I : State → Prop} {L : List Label} {W : Nat → Prop}

theorem pure_smooth (a : α) : Smooth (pure a : Blk α) := ⟨fun _ _ _ _ _ => rfl, fun _ => ⟨rfl, rfl, rfl, rfl⟩⟩

theorem raise_smooth (c : Cause) : Smooth (raise c) := ⟨fun _ _ _ _ _ => rfl, fun _ => ⟨rfl, rfl, rfl, rfl⟩⟩

/-- Every built piece has its landing points where nothing else arrives. -/
theorem Built.landings {m : Blk α} (h : Built I L W m) (k : Holds L W F fun _ => False) (hI : ∀ s, F s → I s) (hq : ∀ s, F s → Quiet s) :
    ∀ t, F t → ∃ us, Landings F us m t := by
  induction h with
  | pure a => exact fun t _ => ⟨[], (pure_smooth a).landings rfl fun _ h => nomatch h⟩
  | raise c _ => exact fun t _ => ⟨[], (raise_smooth c).landings rfl fun _ h => nomatch h⟩
  | @bind _ _ m f hm _ ihm ihf =>
    intro t ht
    obtain ⟨us, h⟩ := ihm t ht
    have left := hm.leaves k hI t ht
    cases e : m t with
    | error x u => exact ⟨us, h.bind_error e⟩
    | ok a u =>
      rw [e] at left
      cases left with
      | ok hu =>
        obtain ⟨vs, h'⟩ := ihf a u hu
        exact ⟨us ++ vs, h.bind_ok e h'⟩
  | get deaf hf ih =>
    intro t ht
    obtain ⟨us, h⟩ := ih t (hI t ht) t ht
    exact ⟨us, fun hj => (congrFun (deaf t _ _ _ _) _).trans (h.abandons hj), fun j => (congrFun (deaf t _ _ _ _) _).trans (h.passes j),
      h.course, h.stuck⟩
  | sync => exact fun t ht => ⟨_, sync_landings (hq t ht) ht⟩
  | own l hl hquiet h =>
    have silent : quietLabels ⊆ silentMoves := by decide
    exact fun t _ => ⟨[], h.smooth.landings ((h.moves t).silent (silent hquiet)).trace fun _ h => nomatch h⟩
  | @count f h keeping =>
    refine fun t _ => ⟨[], (modify_smooth keeping).landings ?_ fun _ h => nomatch h⟩
    obtain ⟨a, b, e⟩ := h t
    show (f t).trace = t.trace
    rw [e]
  | @event _ l hl hb g f h one =>
    intro t ht
    obtain ⟨evs, e⟩ := (h.moves t).emits
    refine ⟨_, h.smooth.landing (hq t ht) ht e ?_ fun _ h => nomatch h⟩
    have := (congrArg List.length e).symm.trans (one t)
    rw [List.length_append, List.length_reverse] at this
    omega
  | memRead hm a =>
    refine fun t ht => ⟨[t], ?_⟩
    rw [memRead_eq]
    obtain e | ⟨v, u, e, h⟩ := readNow_cases a t
    · exact (readNow_smooth a).landing (evs := []) (hq t ht) ht (by rw [alone_error e]; rfl) (by simp) fun u hu => by
        rw [e] at hu; cases hu; rfl
    · obtain ⟨x, p, n, rfl, -⟩ := h
      exact (readNow_smooth a).landing (evs := [_]) (hq t ht) ht (by rw [alone_ok e]; rfl) (by simp) fun u hu => by
        rw [e] at hu; cases hu
  | memWrite hm a ha v =>
    refine fun t ht => ⟨[t], ?_⟩
    rw [memWrite_eq]
    obtain e | ⟨u, e, h⟩ := writeNow_cases a v t
    · exact (writeNow_smooth a v).landing (evs := []) (hq t ht) ht (by rw [alone_error e]; rfl) (by simp) fun u hu => by
        rw [e] at hu; cases hu; rfl
    · obtain ⟨y, z, w, p, n, o, rfl, -⟩ := h
      exact (writeNow_smooth a v).landing (evs := [_]) (hq t ht) ht (by rw [alone_ok e]; rfl) (by simp) fun u hu => by
        rw [e] at hu; cases hu

/-! ### The run -/

/-- The epilogue up to its last statement (R9). -/
def epilogueHead : Blk Unit := do
  at_ (.epilogue 2 1)
  if (← get).cs then
    at_ (.epilogue 2 2)
    release
  else pure ()

theorem epilogue_eq : epilogue = epilogueHead >>= fun _ => at_ (.epilogue 3 1) := by
  simp only [epilogue, epilogueHead, bind_assoc]
  congr 1
  funext _
  congr 1
  funext s
  cases s.cs <;> simp

theorem epilogueHead_built : Built I epilogueLabels W epilogueHead :=
  (at_built (by decide) _).bind fun _ => .get (fun _ _ _ _ _ => rfl) fun _ _ => .ite
    ((at_built (by decide) _).bind fun _ => release_built (by decide) (by decide)) (.pure ())

/-- The epilogue ends at a landing point. -/
theorem epilogue_landings (k : Holds epilogueLabels W F fun _ => False) (hq : ∀ s, F s → Quiet s) (ht : F t) :
    ∃ us u, epilogue t = .ok () u ∧ Landings F us epilogue t ∧ u ∈ us := by
  have head : Built (fun _ => True) epilogueLabels W epilogueHead := epilogueHead_built
  obtain ⟨us, hus⟩ := head.landings k (fun _ _ => trivial) hq t ht
  have left := head.leaves k (fun _ _ => trivial) t ht
  obtain ⟨_, u, e, hu, -⟩ | ⟨_, -, hf⟩ := k.finishes t ht
  · obtain ⟨a, v, ev, eu⟩ := blk_bind_inv (epilogue_eq ▸ e)
    rw [ev] at left
    cases left with
    | ok hv =>
      refine ⟨us ++ [u], u, e, ?_, by simp⟩
      rw [epilogue_eq]
      exact hus.bind_ok ev (at_landings (hq v hv) eu hu)
  · exact hf.elim

/-- Completing the operation makes no event and adds no landing point (log 25). -/
theorem finish_landings (k : Holds epilogueLabels W F fun _ => False) (hq : ∀ s, F s → Quiet s) (o : Result) (ht : F t) :
    ∃ us, Landings F us (finish o) t ∧ ∃ w ∈ us, w.trace = (alone (finish o) t).trace := by
  obtain ⟨us, u, e, hus, hu⟩ := epilogue_landings k hq ht
  have completes : Smooth (modify (complete o) : Blk PUnit) := modify_smooth fun _ _ _ _ _ => rfl
  refine ⟨us ++ [], hus.bind_ok e (completes.landings rfl fun _ h => nomatch h), u, by simp [hu], ?_⟩
  rw [show alone (finish o) t = complete o u from alone_ok (blk_bind_ok e _)]
  rfl

/-- The points of a whole run where a reset can land; there is one after its last event. -/
structure RunLandings (F : State → Prop) (us : List State) (g : State → State) (t : State) : Prop where
  abandons : ∀ {j u}, us[j]? = some u → g (resetIn j t) = resetBlock u
  passes : ∀ j, g (resetIn (us.length + j) t) = resetIn j (g t)
  course : Course F us t (g t)
  last : ∃ w ∈ us, w.trace = (g t).trace

/-- Where a body ends where the epilogue starts, so does the run. -/
theorem Landings.run {body : Blk Unit} {o : Result} (h : Landings F us body t) (hu : alone body t = u) (h' : Landings F vs (finish o) u)
    (last : ∃ w ∈ vs, w.trace = (alone (finish o) u).trace)
    (e : ∀ (g : State → State) (w : State), body w = moved g (body t) → run body w = alone (finish o) (g u)) :
    RunLandings F (us ++ vs) (run body) t := by
  have plain : Machine.run body t = alone (finish o) u := e id t (by cases body t <;> rfl)
  refine ⟨fun hj => ?_, fun j => ?_, ?_, ?_⟩
  · obtain hj | ⟨i, rfl, hi⟩ := getElem?_append_cases hj
    · exact run_abandoned (h.abandons hj)
    · rw [e _ _ (h.passes i), alone_error (h'.abandons hi)]
  · rw [List.length_append, Nat.add_assoc, e _ _ (h.passes _), plain, alone_moved (h'.passes j)]
  · have c := h.course
    rw [hu] at c
    exact plain ▸ c.trans h'.course
  · obtain ⟨w, hw, he⟩ := last
    exact ⟨w, by simp [hw], by rw [plain, he]⟩

/-- A whole run has its landing points where nothing else arrives. -/
theorem run_landings {body : Blk Unit} (h : Built I L W body) (k : Holds L W F fun _ => False)
    (ke : Holds epilogueLabels W F fun _ => False) (hI : ∀ s, F s → I s) (hq : ∀ s, F s → Quiet s) (ht : F t) :
    ∃ us, RunLandings F us (run body) t := by
  obtain ⟨us, hus⟩ := h.landings k hI hq t ht
  have left := h.leaves k hI t ht
  have finishes : ∀ (o : Result) (u : State), F u → alone body t = u →
      (∀ (g : State → State) (w : State), body w = moved g (body t) → run body w = alone (finish o) (g u)) →
      ∃ us, RunLandings F us (run body) t := fun o u hu hbu e => by
    obtain ⟨vs, hvs, last⟩ := finish_landings ke hq o hu
    exact ⟨us ++ vs, hus.run hbu hvs last e⟩
  cases hb : body t with
  | ok a u =>
    rw [hb] at left
    cases left with
    | ok hu => exact finishes .ok u hu (alone_ok hb) fun g w hw => by rw [hb] at hw; rw [run_ok hw, finishRun_eq]
  | error x u =>
    rw [hb] at left
    cases left with
    | @raised c _ _ hu =>
      exact finishes c.outcome u hu (alone_error hb) fun g w hw => by rw [hb] at hw; rw [run_raised hw, finishRun_eq]
    | stuck _ hu =>
      have ends := run_stuck hb
      refine ⟨us, fun hj => run_abandoned (hus.abandons hj), fun j => ?_, ?_, ?_⟩
      · rw [run_stuck ((hus.passes j).trans (by rw [hb]; rfl)), ends]
      · rw [ends, ← alone_error hb]; exact hus.course
      · rw [ends]; exact hus.stuck hb
    | abandoned ha => exact ha.elim

end Sys2Proof.Machine
end

section
/-! SUPPORT. What a run has done by its events when nothing arrives from outside (20_memory.md R51), and that each exchange takes the next of
the card's bytes, whatever arrives (00_scope.md R5). -/
namespace Sys2Proof.Machine

variable {L : List Label} {W : Nat → Prop} {r s t u : State} {evs evs' : List Event} {α : Type}

/-! ### What events do -/

/-- The events from a state to a later one are determined. -/
theorem Emits.unique (h : Emits s t evs) (k : Emits s t evs') : evs = evs' :=
  List.reverse_injective (List.append_cancel_right (h.symm.trans k))

theorem exchangeCount_append (l m : List Event) : exchangeCount (l ++ m) = exchangeCount l + exchangeCount m := by
  induction l with
  | nil => simp [exchangeCount]
  | cons e l ih =>
    cases e with
    | xchg => simp only [List.cons_append, exchangeCount, ih]; omega
    | select | deselect | memRead | memWrite => exact ih

/-- From `s` to `t` the block made these events, with all they do to buffer memory, to the count of exchanges and to chip-select. -/
structure Made (s t : State) (evs : List Event) : Prop where
  events : Emits s t evs
  mem : t.mem = eventsStore s.mem evs
  xchgs : t.xchgs = s.xchgs + exchangeCount evs
  cs : t.cs = (selects evs).getLast?.getD s.cs

theorem Made.trans (h : Made s t evs) (k : Made t u evs') : Made s u (evs ++ evs') where
  events := h.events.trans k.events
  mem := by rw [k.mem, h.mem, eventsStore, eventsStore, eventsStore, List.foldl_append]
  xchgs := by rw [k.xchgs, h.xchgs, exchangeCount_append, Nat.add_assoc]
  cs := by
    rw [k.cs, h.cs, selects_append, List.getLast?_append]
    cases (selects evs').getLast? <;> rfl

/-- Every move of the sequencer that is no buffer access makes one event, or none. -/
theorem Move.made {l : Label} (hl : l ∈ quietLabels ++ busLabels) (h : Move l s t) : ∃ evs, Made s t evs := by
  cases l
  case outside | reset | memRead | memWrite => exact absurd hl (by decide)
  case exchange => obtain ⟨o, i, _, rfl⟩ := h; exact ⟨[.xchg o i], rfl, rfl, rfl, rfl⟩
  case select => obtain rfl := h; exact ⟨[.select], rfl, rfl, rfl, rfl⟩
  case deselect => obtain rfl := h; exact ⟨[.deselect], rfl, rfl, rfl, rfl⟩
  all_goals
    obtain ⟨trace, cs⟩ := h.silent (by decide)
    have same := h.unchanged (by decide)
    exact ⟨[], trace, same.mem (by decide) (by decide), (same.bus (by decide)).2, cs⟩

theorem Reads.made {a : Nat} (h : Reads a s t) : ∃ evs, Made s t evs := by
  obtain ⟨v, _, _, rfl, -⟩ := h
  exact ⟨[.memRead (bufAddr s a) v], rfl, rfl, rfl, rfl⟩

/-- Where the requester wrote no byte, a write stores what its event says (R64). -/
theorem Writes.made {a : Nat} (hr : s.reqOld = []) (h : Writes a s t) : ∃ evs, Made s t evs := by
  obtain ⟨v, _, w, _, _, _, rfl, ⟨rfl, -⟩ | ⟨hne, -⟩⟩ := h
  · exact ⟨[.memWrite (bufAddr s a) w], rfl, rfl, rfl, rfl⟩
  · exact absurd (by rw [hr]; rfl) hne

/-- `t` is a later state of the run `r` started, with nothing to arrive, and its events did all they do. -/
def Tracked (L : List Label) (W : Nat → Prop) (r t : State) : Prop := Calm L W r t ∧ ∃ evs, Made r t evs

theorem tracked_holds (r : State) : Holds L W (Tracked L W r) fun _ => False where
  hears t h := .inl ⟨t, sync_quiet h.1.quiet, .refl t, h⟩
  moves l hl hq t u m := fun ⟨c, _, h⟩ =>
    let ⟨_, k⟩ := m.made hq
    ⟨(calm_holds r).moves l hl hq t u m c, _, h.trans k⟩
  count t a b := fun ⟨c, evs, h⟩ => ⟨(calm_holds r).count t a b c, evs, h.events, h.mem, h.xchgs, h.cs⟩
  read hm a t u m := fun ⟨c, _, h⟩ =>
    let ⟨_, k⟩ := m.made
    ⟨(calm_holds r).read hm a t u m c, _, h.trans k⟩
  write hm a ha t u m := fun ⟨c, _, h⟩ =>
    let ⟨_, k⟩ := m.made c.reqOld
    ⟨(calm_holds r).write hm a ha t u m c, _, h.trans k⟩

/-! ### The card's bytes -/

/-- From `s` to `t` each exchange took the next of the card's bytes (R5). -/
def Drew (s t : State) : Prop := ∃ n, t.card = s.card.drop n ∧ t.xchgs = s.xchgs + n

theorem drew_chain : Chain Drew where
  refl _ := ⟨0, rfl, rfl⟩
  trans _ _ _ := fun ⟨n, h, k⟩ ⟨m, h', k'⟩ => ⟨n + m, by rw [h', h, List.drop_drop], by rw [k', k, Nat.add_assoc]⟩

/-- So the count of exchanges says which bytes are left. -/
theorem Drew.card_eq (h : Drew s t) {n : Nat} (hn : t.xchgs = s.xchgs + n) : t.card = s.card.drop n := by
  obtain ⟨m, hc, hm⟩ := h
  obtain rfl := Nat.add_left_cancel (hm.symm.trans hn)
  exact hc

/-- A move that is no exchange takes none of them, a reset neither (log 19). -/
theorem Path.drew (hx : .exchange ∉ L) (h : Path L s t) : Drew s t := by
  induction h with
  | refl s => exact drew_chain.refl s
  | @step s u t l hl m _ ih =>
    refine drew_chain.trans _ _ _ ?_ ih
    have he : l ≠ .exchange := fun e => hx (e ▸ hl)
    by_cases hr : l = .reset
    · subst hr
      obtain ⟨i, rfl⟩ := m
      exact ⟨0, rfl, rfl⟩
    · obtain ⟨hc, hn⟩ := (m.unchanged hr).bus (by simpa using he.symm)
      exact ⟨0, hc, hn⟩

theorem Walks.drew {m : Blk α} (h : Walks L m) (hx : .exchange ∉ L) : Steps Drew m := fun s => (h s).drew hx

theorem sync_drew : Steps Drew sync := (sync_moves (List.Subset.refl _)).drew (by decide)

theorem xchg_drew (o : Byte) : Steps Drew (xchg o) :=
  Steps.bind drew_chain sync_drew fun _ _ => ⟨1, List.drop_one.symm, rfl⟩

theorem drew_closed : Closed fun _ => Steps Drew where
  pure a := .pure drew_chain a
  bind := .bind drew_chain
  get := .get drew_chain
  sync := sync_drew
  change l hl h := (Walks.modify (L := ownMoves) l hl h).drew (by decide)
  xchg := xchg_drew
  raise c := .raise drew_chain c
  memRead a := (memRead_moves (List.Subset.refl _) a).drew (by decide)
  memWrite a v := (memWrite_moves (List.Subset.refl _) a v).drew (by decide)

theorem Opens.drew {m : Blk Unit} (h : Opens (fun _ => Steps Drew) (fun _ => Steps Drew) m) : Steps Drew m := by
  induction h with
  | select hf => exact .bind drew_chain ((select_moves (List.Subset.refl _)).drew (by decide)) hf
  | before hm _ ih => exact .bind drew_chain hm ih
  | after _ hf ih => exact .bind drew_chain ih hf

theorem deselect_drew : Steps Drew deselect := .bind drew_chain sync_drew fun _ _ => ⟨0, rfl, rfl⟩

theorem release_drew : Steps Drew release :=
  release_eq ▸ .bind drew_chain deselect_drew fun _ => .bind drew_chain (xchg_drew _) fun _ => .pure drew_chain _

theorem epilogue_drew : Steps Drew epilogue :=
  .bind drew_chain (drew_closed.at_ _) fun _ => .bind drew_chain drew_closed.get fun _ => .ite
    (.bind drew_chain (drew_closed.at_ _) fun _ => .bind drew_chain release_drew fun _ => drew_closed.at_ _) (drew_closed.at_ _)

/-- What a body, the epilogue and a completion keep, a run keeps (R9). -/
theorem run_steps {R : State → State → Prop} (hR : Chain R) {body : Blk Unit} (hb : Steps R body) (he : Steps R epilogue)
    (hc : ∀ o s, R s (complete o s)) (s : State) : R s (run body s) := by
  have finishes : ∀ {t} o, R s t → R s (finishRun o t) := fun {t} o h => by
    have keeps : Steps R (finish o) := he.bind hR fun _ => .modify (hc o)
    exact finishRun_eq o t ▸ hR.trans _ _ _ h (keeps t)
  have h := hb s
  cases hs : body s with
  | ok a t =>
    rw [alone_ok hs] at h
    exact run_ok hs ▸ finishes .ok h
  | error e t =>
    rw [alone_error hs] at h
    cases e with
    | raised c => exact run_raised hs ▸ finishes c.outcome h
    | abandoned => exact run_abandoned hs ▸ h
    | stuck => exact run_stuck hs ▸ h

theorem start_drew {body : Blk Unit} (hb : Steps Drew body) (op : BitVec 4) (s : State) : Drew s (start op body s) := by
  cases hbusy : s.busy with
  | true => rw [start_busy hbusy]; exact drew_chain.refl s
  | false =>
    cases hc : preCheck op s with
    | some c => exact start_refused hbusy body hc ▸ ⟨0, rfl, rfl⟩
    | none => exact start_runs hbusy body hc ▸ run_steps drew_chain hb epilogue_drew (fun _ _ => ⟨0, rfl, rfl⟩) (started op s)

/-- Every request takes the card's bytes in order, whatever arrives. -/
theorem exec_drew {i : Instr} {op : BitVec 4} (h : i.opCode? = some op) (s : State) : ∃ t, exec i s = .next t ∧ Drew s t := by
  have k := drew_closed
  have go : ∀ {op : BitVec 4} {body : Blk Unit}, Steps Drew body →
      ∃ t, (Host.Outcome.next (start op body s) : Host.Outcome State Fault Refusal) = .next t ∧ Drew s t :=
    fun hb => ⟨_, rfl, start_drew hb _ s⟩
  cases i <;> simp only [Instr.opCode?, reduceCtorEq] at h
  case detect => exact go ((bodyDetect_moves (List.Subset.refl _)).drew (by decide))
  case deinit => exact go ((bodyDeinit_moves (List.Subset.refl _)).drew (by decide))
  case init => exact go (bodyInit_opens k.toStraight k).drew
  case rd1 => exact go (bodyRd1_opens k.toStraight k).drew
  case rdn => exact go (bodyRdn_opens k.toStraight k).drew
  case wr1 => exact go (bodyWr1_opens k.toStraight k).drew
  case wrn => exact go (bodyWrn_opens k.toStraight k).drew
  case erase => exact go (bodyErase_opens k.toStraight k).drew
  case info => exact go (bodyInfo_opens k.toStraight k).drew
  case stat => exact go (bodyStat_opens k.toStraight k).drew
  all_goals exact go (k.raise _)

end Sys2Proof.Machine
end

section
/-! SUPPORT. The reset input, due at a step and while an operation runs: what it leaves (70_reset_and_hazards.md R250, R251). -/
namespace Sys2Proof.Machine

variable {F : State → Prop} {L : List Label} {W : Nat → Prop} {r s t u : State} {evs : List Event}

/-- Settles O12: a due reset is the block's state at its reset values. -/
theorem resetInput : Obligations.ResetInput := by
  intro s rest hseq hin
  have due : turn s = .quiet (resetBlock { s with inbox := rest }) := by rw [turn_arrivals hseq, arrivals_due hin]; rfl
  rw [step, due]
  cases s.cs <;> rfl

/-- What is left of a run after a reset that lands where these events have been made (R250, R251). -/
theorem resetBlock_tracked (h : Calm L W r u) (k : Made r u evs) (hcs : r.cs = false) (ho : .outside ∉ L)
    (hcard : u.card = r.card.drop (exchangeCount evs)) :
    resetBlock u = { State.reset with
      mem := eventsStore r.mem evs, cfg := r.cfg, card := r.card.drop (exchangeCount evs), xchgs := r.xchgs + exchangeCount evs,
      pins := u.pins, pinReads := u.pinReads, picks := r.picks, pickCount := r.pickCount, rdata := r.rdata,
      trace := (evs ++ resetDeselect evs).reverse ++ r.trace } := by
  obtain ⟨-, -, -, hrdata⟩ := h.regs ho
  have hd : (if u.cs then Event.deselect :: u.trace else u.trace) = (evs ++ resetDeselect evs).reverse ++ r.trace := by
    rw [k.cs, hcs, k.events, resetDeselect]
    rcases (selects evs).getLast? with _ | _ | _ <;> simp
  rw [resetBlock, hd, k.mem, k.xchgs, hcard, h.cfg, h.picks.1, h.picks.2, hrdata, h.quiet]
  rfl

/-! ### A run up to a landing point -/

/-- How many events come before a landing point of a run from `t`. -/
def eventsBefore (t : State) (us : List State) (k : Nat) : Nat := (us.getD k t).trace.length - t.trace.length

section Points
variable {us : List State} {g : State → State} (l : RunLandings F us g t) (hev : Emits t (g t) evs)
include l hev

/-- What has been made at a landing point is as many of the run's events as come before it, and no more than its number. -/
theorem RunLandings.point {k : Nat} (hk : k < us.length) : ∃ w, us[k]? = some w ∧ F w ∧ Emits t w (evs.take (eventsBefore t us k)) ∧
    eventsBefore t us k ≤ k ∧ eventsBefore t us k ≤ evs.length := by
  have hw : us[k]? = some us[k] := List.getElem?_eq_getElem hk
  obtain ⟨hF, ⟨pre, hpre⟩, post, hpost⟩ := l.course.between (List.getElem_mem hk)
  have hlen := congrArg List.length hpre
  rw [List.length_append, List.length_reverse] at hlen
  have count : eventsBefore t us k = pre.length := by
    rw [eventsBefore, List.getD_eq_getElem?_getD, hw, Option.getD_some, hlen, Nat.add_sub_cancel]
  have hle := l.course.trace_le hw
  obtain rfl := hev.unique (hpre.trans hpost)
  rw [count, List.take_left, List.length_append]
  exact ⟨_, hw, hF, hpre, by omega, by omega⟩

/-- Every number of events comes before one of them. -/
theorem RunLandings.reaches {n : Nat} (hn : n ≤ evs.length) : ∃ k, k < us.length ∧ eventsBefore t us k = n := by
  have hlen := congrArg List.length hev
  rw [List.length_append, List.length_reverse] at hlen
  have made : ∃ w ∈ us, w.trace.length = t.trace.length + n := by
    by_cases h : n < evs.length
    · exact l.course.covers (by omega) (by omega)
    · obtain ⟨w, hw, e⟩ := l.last
      exact ⟨w, hw, by rw [e]; omega⟩
  obtain ⟨w, hw, e⟩ := made
  obtain ⟨k, hk, rfl⟩ := List.getElem_of_mem hw
  refine ⟨k, hk, ?_⟩
  rw [eventsBefore, List.getD_eq_getElem?_getD, List.getElem?_eq_getElem hk, Option.getD_some, e, Nat.add_sub_cancel_left]

end Points

/-- A started operation has its landing points. -/
theorem started_landings {i : Instr} {op : BitVec 4} {body : Blk Unit} (h : Program (Underway i s) (labelsOf i) (StoredBy i s) body)
    (q : Quiet s) : ∃ us, RunLandings (fun t => Underway i s t ∧ Tracked (labelsOf i ++ epilogueLabels) (StoredBy i s) (started op s) t) us
      (run body) (started op s) := by
  have noFamily : i ≠ .init → Label.family ∉ labelsOf i ++ epilogueLabels := fun hi => by simp [labelsOf_family hi, epilogueLabels]
  have k := (tracked_holds (L := labelsOf i ++ epilogueLabels) (W := StoredBy i s) (started op s)).underway (i := i) (s₀ := s) noFamily
  have calm : Calm (labelsOf i ++ epilogueLabels) (StoredBy i s) (started op s) (started op s) :=
    ⟨.refl _ _, q, rfl, ⟨rfl, rfl⟩, fun _ _ => rfl⟩
  exact run_landings h.built (k.mono (by simp)) (k.mono (by simp)) (fun _ h => h.1) (fun _ h => h.2.1.quiet)
    ⟨⟨rfl, rfl, fun _ => rfl⟩, calm, [], rfl, rfl, rfl, rfl⟩

/-- Settles O13: a reset lands at one of the points of the run, and leaves the reset state after the events before it; the card's bytes are
counted on the run it abandons. -/
theorem resetDuringOperation : Obligations.ResetDuringOperation := by
  intro s i op hop hb hcs hc
  obtain ⟨body, he, hp⟩ := exec_program hop
  let s₀ : State := { s with inbox := [] }
  have hp : Program (Underway i s₀) (labelsOf i) (StoredBy i s₀) body := hp.elim (fun hn => absurd hc (hn s)) fun h => h s₀
  have ho : Label.outside ∉ labelsOf i ++ epilogueLabels := by simp [labelsOf_owner hop, epilogueLabels]
  obtain ⟨us, l⟩ := started_landings (op := op) hp rfl
  obtain ⟨evs, hev⟩ := l.course.emits
  have runs : ∀ k, exec i { s with inbox := [⟨k, .reset⟩] } = .next (run body (resetIn k (started op s₀))) := fun k => by
    rw [he, start_runs (s := { s with inbox := [⟨k, .reset⟩] }) hb body hc]; rfl
  refine ⟨run body (started op s₀), evs, us.length, eventsBefore (started op s₀) us, ?_, hev, ?_, ?_, fun n => l.reaches hev,
    fun k => ⟨_, runs k, fun hk => ?_, fun hk => ?_⟩⟩
  · rw [he, start_runs (s := s₀) hb body hc]; rfl
  · obtain ⟨k, hk, e⟩ := l.reaches hev (Nat.le_refl _)
    obtain ⟨_, -, -, -, hle, -⟩ := l.point hev hk
    omega
  · intro k hk
    obtain ⟨_, -, -, -, hle⟩ := l.point hev hk
    exact hle
  · have := l.passes (k - us.length)
    rw [Nat.add_sub_cancel' hk] at this
    exact this
  · obtain ⟨w, hw, ⟨-, calm, _, hmade⟩, hpre, -⟩ := l.point hev hk
    obtain rfl := hpre.unique hmade.events
    have abandons := l.abandons hw
    have card : w.card = s.card.drop (exchangeCount (evs.take (eventsBefore (started op s₀) us k))) := by
      obtain ⟨t, ht, drew⟩ := exec_drew hop { s with inbox := [⟨k, .reset⟩] }
      obtain rfl : resetBlock w = t := Host.Outcome.next.inj (by rw [← abandons, ← runs k, ht])
      exact drew.card_eq hmade.xchgs
    rw [abandons]
    exact (resetBlock_tracked (r := started op s₀) calm hmade hcs ho card).trans rfl

end Sys2Proof.Machine
end
